-- ==== Sys2Proof/Word.lean ====
section
/-! DEFINITION. The two word types of the unit: the byte (R14) and the 16-bit unsigned value of every offset, length,
index and register (R9, R38). -/

namespace Sys2Proof

/-- A byte: 8 bits, unsigned, bit 0 the least significant (R14). -/
abbrev Byte := BitVec 8

/-- A 16-bit unsigned value: the `u16` operands (R86), the 2-byte fields (R51) and the registers (R31). -/
abbrev U16 := BitVec 16

end Sys2Proof
end

