-- ==== Sys2Proof/Syntax.lean ====
section
/-! DEFINITION. The commands of the unit: one constructor per row of the opcode map (R92), with the row's operands in
the row's order. An inline byte string keeps its own length operand `n` beside it (R86, R99). -/

namespace Sys2Proof

/-- One command of the closed set of 27 (R92). -/
inductive Instr where
  /-- `RESET_BUFFER`, opcode `0x01`, format `N` (R173). -/
  | resetBuffer
  /-- `LOCK_BUFFER`, opcode `0x02`, format `N` (R170). -/
  | lockBuffer
  /-- `UNLOCK_BUFFER`, opcode `0x03`, format `N` (R171). -/
  | unlockBuffer
  /-- `GET_LOCK_STATUS`, opcode `0x04`, format `N` (R172). -/
  | getLockStatus
  /-- `READ_REG reg`, opcode `0x05`, format `R` (R175). -/
  | readReg (reg : Byte)
  /-- `START_NEW_MESSAGE src, dst`, opcode `0x10`, format `P` (R110). -/
  | startNewMessage (src dst : Byte)
  /-- `ADD_ACK_REQUEST`, opcode `0x11`, format `N` (R111). -/
  | addAckRequest
  /-- `ADD_ACK_STATUS`, opcode `0x12`, format `N` (R112). -/
  | addAckStatus
  /-- `ADD_NACK_STATUS`, opcode `0x13`, format `N` (R113). -/
  | addNackStatus
  /-- `ADD_DATA type, n, payload`, opcode `0x14`, format `D` (R114). -/
  | addData (type : Byte) (n : U16) (payload : List Byte)
  /-- `COMPLETE_MESSAGE`, opcode `0x15`, format `N` (R115). -/
  | completeMessage
  /-- `GET_SEND_PACKET max`, opcode `0x16`, format `W` (R116). -/
  | getSendPacket (max : U16)
  /-- `GENERATE_ACK_MESSAGE src, dst`, opcode `0x17`, format `P` (R117). -/
  | generateAckMessage (src dst : Byte)
  /-- `GENERATE_NACK_MESSAGE src, dst`, opcode `0x18`, format `P` (R118). -/
  | generateNackMessage (src dst : Byte)
  /-- `ADD_RECEIVED_BYTES n, bytes`, opcode `0x20`, format `S` (R130). -/
  | addReceivedBytes (n : U16) (bytes : List Byte)
  /-- `DATA_AVAILABLE`, opcode `0x21`, format `N` (R140). -/
  | dataAvailable
  /-- `VALIDATE_DATA`, opcode `0x22`, format `N` (R141). -/
  | validateData
  /-- `GET_DATA_COUNT`, opcode `0x23`, format `N` (R142). -/
  | getDataCount
  /-- `GET_DATA_INFO k`, opcode `0x24`, format `W` (R146). -/
  | getDataInfo (k : U16)
  /-- `GET_DATA off, type, n, max`, opcode `0x25`, format `G` (R148). -/
  | getData (off : U16) (type : Byte) (n max : U16)
  /-- `GET_SOURCE_ID`, opcode `0x26`, format `N` (R149). -/
  | getSourceId
  /-- `GET_DESTINATION_ID`, opcode `0x27`, format `N` (R150). -/
  | getDestinationId
  /-- `GET_ACK_STATUS`, opcode `0x28`, format `N` (R151). -/
  | getAckStatus
  /-- `GET_ACK_REQUEST`, opcode `0x29`, format `N` (R152). -/
  | getAckRequest
  /-- `FIND_HEADER_POSITION n, bytes`, opcode `0x30`, format `S` (R161). -/
  | findHeaderPosition (n : U16) (bytes : List Byte)
  /-- `GET_MESSAGE_BUFFER_LEN hpos, n, bytes`, opcode `0x31`, format `H` (R162). -/
  | getMessageBufferLen (hpos n : U16) (bytes : List Byte)
  /-- `CRC16 n, bytes`, opcode `0x32`, format `S` (R190). -/
  | crc16 (n : U16) (bytes : List Byte)
deriving DecidableEq, Repr

end Sys2Proof
end

