-- ==== Sys2Proof/WellFormed.lean ====
section
/-! DEFINITION. Which command terms a packet can carry. Every operand but the inline byte string is a `u8` or a `u16`
whose values are all legal encodings (R94); an inline byte string is exactly as long as its length operand says (R86). -/

namespace Sys2Proof

/-- An inline byte string occupies exactly `n` bytes (R86). -/
abbrev InlineFits (n : U16) (bytes : List Byte) : Prop := bytes.length = n.toNat

/-- A command that a well-formed packet carries (R86, R88). A step executes no other one (DESIGN CHOICE, safe: log 9). -/
abbrev WellFormed : Instr → Prop
  | .addData _ n payload => InlineFits n payload
  | .addReceivedBytes n bytes => InlineFits n bytes
  | .findHeaderPosition n bytes => InlineFits n bytes
  | .getMessageBufferLen _ n bytes => InlineFits n bytes
  | .crc16 n bytes => InlineFits n bytes
  | .resetBuffer | .lockBuffer | .unlockBuffer | .getLockStatus | .readReg _ => True
  | .startNewMessage _ _ | .addAckRequest | .addAckStatus | .addNackStatus | .completeMessage => True
  | .getSendPacket _ | .generateAckMessage _ _ | .generateNackMessage _ _ => True
  | .dataAvailable | .validateData | .getDataCount | .getDataInfo _ | .getData _ _ _ _ => True
  | .getSourceId | .getDestinationId | .getAckStatus | .getAckRequest => True

end Sys2Proof
end

