-- ==== Sys2Proof/Decode.lean ====
section
/-! DEFINITION. The command port's codec: byte order (R51, R86), the decoder, total on any byte string and rejecting
by name (R88, R93), and after it the encoder (R87, R92). -/

namespace Sys2Proof

/-- The two bytes of a 16-bit value, the less significant first (R51, R86). -/
def le16 (v : U16) : List Byte := [BitVec.ofNat 8 (v.toNat % 256), BitVec.ofNat 8 (v.toNat / 256)]

/-- The 16-bit value of two bytes, `lo` at the lower offset (R51, R86). -/
def u16 (lo hi : Byte) : U16 := BitVec.ofNat 16 (lo.toNat + 256 * hi.toNat)

/-- The eight packet formats (R87). -/
inductive Format where
  | N | R | P | W | S | D | G | H
deriving DecidableEq, Repr

/-- The format of an opcode; `none` for a reserved opcode (R92, R93). -/
def formatOf (op : Byte) : Option Format :=
  match op.toNat with
  | 0x01 | 0x02 | 0x03 | 0x04 => some .N
  | 0x05 => some .R
  | 0x10 | 0x17 | 0x18 => some .P
  | 0x11 | 0x12 | 0x13 | 0x15 => some .N
  | 0x14 => some .D
  | 0x16 | 0x24 => some .W
  | 0x20 | 0x30 | 0x32 => some .S
  | 0x21 | 0x22 | 0x23 | 0x26 | 0x27 | 0x28 | 0x29 => some .N
  | 0x25 => some .G
  | 0x31 => some .H
  | _ => none

/-- The length of a format's packet in bytes, `n` being the value of its length field (R87). -/
def Format.packetLength (n : Nat) : Format → Nat
  | .N => 1
  | .R => 2
  | .P => 3
  | .W => 3
  | .S => 3 + n
  | .D => 4 + n
  | .G => 8
  | .H => 5 + n

/-- The value of a packet's length field: bytes 1 and 2 in `S`, 2 and 3 in `D`, 3 and 4 in `H` (R87). Formats without
an inline string have none. -/
def Format.lengthField (packet : List Byte) : Format → Nat
  | .S => (u16 (packet.getD 1 0) (packet.getD 2 0)).toNat
  | .D => (u16 (packet.getD 2 0) (packet.getD 3 0)).toNat
  | .H => (u16 (packet.getD 3 0) (packet.getD 4 0)).toNat
  | .N | .R | .P | .W | .G => 0

/-- Why a byte string is no command: the three kinds of malformed packet (R93). DESIGN CHOICE, safe (log 6): the three
names are the model's; all are answered alike. -/
inductive DecodeError where
  /-- The empty packet: it has no opcode. -/
  | emptyPacket
  /-- The opcode is not in the opcode map. -/
  | reservedOpcode (op : Byte)
  /-- The packet's length is not its format's packet length. -/
  | wrongLength (op : Byte)
deriving DecidableEq, Repr

/-- Format `N`: no operand (R87). -/
def operandsN (op : Byte) (i : Instr) : List Byte → Except DecodeError Instr
  | [] => .ok i
  | _ => .error (.wrongLength op)

/-- Formats `R`: one byte (R87). -/
def operandsR (op : Byte) (f : Byte → Instr) : List Byte → Except DecodeError Instr
  | [r] => .ok (f r)
  | _ => .error (.wrongLength op)

/-- Format `P`: source id, destination id (R87). -/
def operandsP (op : Byte) (f : Byte → Byte → Instr) : List Byte → Except DecodeError Instr
  | [s, d] => .ok (f s d)
  | _ => .error (.wrongLength op)

/-- Format `W`: one 16-bit operand (R87). -/
def operandsW (op : Byte) (f : U16 → Instr) : List Byte → Except DecodeError Instr
  | [w0, w1] => .ok (f (u16 w0 w1))
  | _ => .error (.wrongLength op)

/-- Format `S`: length, then exactly that many bytes (R87). -/
def operandsS (op : Byte) (f : U16 → List Byte → Instr) : List Byte → Except DecodeError Instr
  | n0 :: n1 :: bytes =>
    if InlineFits (u16 n0 n1) bytes then .ok (f (u16 n0 n1) bytes) else .error (.wrongLength op)
  | _ => .error (.wrongLength op)

/-- Format `D`: item type, length, then exactly that many payload bytes (R87). -/
def operandsD (op : Byte) (f : Byte → U16 → List Byte → Instr) : List Byte → Except DecodeError Instr
  | t :: n0 :: n1 :: payload =>
    if InlineFits (u16 n0 n1) payload then .ok (f t (u16 n0 n1) payload) else .error (.wrongLength op)
  | _ => .error (.wrongLength op)

/-- Format `G`: the 5-byte descriptor (offset, type, length; R98), then the output buffer's size (R87). -/
def operandsG (op : Byte) (f : U16 → Byte → U16 → U16 → Instr) : List Byte → Except DecodeError Instr
  | [o0, o1, t, n0, n1, m0, m1] => .ok (f (u16 o0 o1) t (u16 n0 n1) (u16 m0 m1))
  | _ => .error (.wrongLength op)

/-- Format `H`: header position, length, then exactly that many bytes (R87). -/
def operandsH (op : Byte) (f : U16 → U16 → List Byte → Instr) : List Byte → Except DecodeError Instr
  | p0 :: p1 :: n0 :: n1 :: bytes =>
    if InlineFits (u16 n0 n1) bytes then .ok (f (u16 p0 p1) (u16 n0 n1) bytes) else .error (.wrongLength op)
  | _ => .error (.wrongLength op)

/-- The command behind an opcode, read from the operand bytes that follow it (R92). -/
def decodeOperands (op : Byte) (rest : List Byte) : Except DecodeError Instr :=
  match op.toNat with
  | 0x01 => operandsN op .resetBuffer rest
  | 0x02 => operandsN op .lockBuffer rest
  | 0x03 => operandsN op .unlockBuffer rest
  | 0x04 => operandsN op .getLockStatus rest
  | 0x05 => operandsR op .readReg rest
  | 0x10 => operandsP op .startNewMessage rest
  | 0x11 => operandsN op .addAckRequest rest
  | 0x12 => operandsN op .addAckStatus rest
  | 0x13 => operandsN op .addNackStatus rest
  | 0x14 => operandsD op .addData rest
  | 0x15 => operandsN op .completeMessage rest
  | 0x16 => operandsW op .getSendPacket rest
  | 0x17 => operandsP op .generateAckMessage rest
  | 0x18 => operandsP op .generateNackMessage rest
  | 0x20 => operandsS op .addReceivedBytes rest
  | 0x21 => operandsN op .dataAvailable rest
  | 0x22 => operandsN op .validateData rest
  | 0x23 => operandsN op .getDataCount rest
  | 0x24 => operandsW op .getDataInfo rest
  | 0x25 => operandsG op .getData rest
  | 0x26 => operandsN op .getSourceId rest
  | 0x27 => operandsN op .getDestinationId rest
  | 0x28 => operandsN op .getAckStatus rest
  | 0x29 => operandsN op .getAckRequest rest
  | 0x30 => operandsS op .findHeaderPosition rest
  | 0x31 => operandsH op .getMessageBufferLen rest
  | 0x32 => operandsS op .crc16 rest
  | _ => .error (.reservedOpcode op)

/-- The decoder: every byte string is either exactly one well-formed command or malformed (R93). -/
def decode : List Byte → Except DecodeError Instr
  | [] => .error .emptyPacket
  | op :: rest => decodeOperands op rest

/-- The opcode of a command (R92). -/
def opcode : Instr → Byte
  | .resetBuffer => 0x01
  | .lockBuffer => 0x02
  | .unlockBuffer => 0x03
  | .getLockStatus => 0x04
  | .readReg _ => 0x05
  | .startNewMessage _ _ => 0x10
  | .addAckRequest => 0x11
  | .addAckStatus => 0x12
  | .addNackStatus => 0x13
  | .addData _ _ _ => 0x14
  | .completeMessage => 0x15
  | .getSendPacket _ => 0x16
  | .generateAckMessage _ _ => 0x17
  | .generateNackMessage _ _ => 0x18
  | .addReceivedBytes _ _ => 0x20
  | .dataAvailable => 0x21
  | .validateData => 0x22
  | .getDataCount => 0x23
  | .getDataInfo _ => 0x24
  | .getData _ _ _ _ => 0x25
  | .getSourceId => 0x26
  | .getDestinationId => 0x27
  | .getAckStatus => 0x28
  | .getAckRequest => 0x29
  | .findHeaderPosition _ _ => 0x30
  | .getMessageBufferLen _ _ _ => 0x31
  | .crc16 _ _ => 0x32

/-- The operand bytes of a command, in the order of its format (R87). -/
def encodeOperands : Instr → List Byte
  | .readReg reg => [reg]
  | .startNewMessage src dst => [src, dst]
  | .generateAckMessage src dst => [src, dst]
  | .generateNackMessage src dst => [src, dst]
  | .getSendPacket max => le16 max
  | .getDataInfo k => le16 k
  | .addReceivedBytes n bytes => le16 n ++ bytes
  | .findHeaderPosition n bytes => le16 n ++ bytes
  | .crc16 n bytes => le16 n ++ bytes
  | .addData type n payload => type :: (le16 n ++ payload)
  | .getData off type n max => le16 off ++ type :: (le16 n ++ le16 max)
  | .getMessageBufferLen hpos n bytes => le16 hpos ++ (le16 n ++ bytes)
  | .resetBuffer | .lockBuffer | .unlockBuffer | .getLockStatus => []
  | .addAckRequest | .addAckStatus | .addNackStatus | .completeMessage => []
  | .dataAvailable | .validateData | .getDataCount => []
  | .getSourceId | .getDestinationId | .getAckStatus | .getAckRequest => []

/-- The packet of a command: its opcode, then its operands (R85). -/
def encode (i : Instr) : List Byte := opcode i :: encodeOperands i

/-- The first `k` bytes of the number `w`, its least significant byte first. -/
def bytesOfNat : Nat → Nat → List Byte
  | 0, _ => []
  | k + 1, w => BitVec.ofNat 8 (w % 256) :: bytesOfNat k (w / 256)

/-- The packet that an opcode-table word stands for (log 8): the word's bytes, the first packet byte being bits 7..0,
continued with zero bytes up to the packet length that its opcode and length field give (R87, R88). -/
def tablePacket (nbits w : Nat) : List Byte :=
  let given := bytesOfNat ((nbits + 7) / 8) w
  match formatOf (given.getD 0 0) with
  | none => given
  | some f => given ++ List.replicate (f.packetLength (f.lengthField given) - given.length) 0

/-- The command the decoder reads from an opcode-table word. -/
def decodeTableWord (nbits w : Nat) : Option Instr := (decode (tablePacket nbits w)).toOption

end Sys2Proof
end

