-- ==== Sys2Proof/Config.lean ====
section
/-! DEFINITION. What an implementation fixes: the buffer capacity, the unit's one open parameter (R9, R32). -/

namespace Sys2Proof

/-- The configuration of one unit. It is fixed when the unit is constructed and no command changes it (R9, R32). The
state carries it, so that a statement about every state is a statement about every capacity (log 1). -/
structure Config where
  /-- `CAP`, the buffer capacity in bytes, `0 <= CAP <= 65535` (R9). -/
  cap : U16
deriving DecidableEq, Repr

/-- DESIGN CHOICE (log 1), unsafe for claims about `State.reset` alone: the capacity of the unit that `State.reset`
shows. R9 leaves `CAP` open; 32 is the capacity of the spec's test vectors. -/
def Config.resetCap : U16 := 32

/-- DESIGN CHOICE (log 2), unsafe where a claim reads a byte nothing has written: what a byte of the buffer that the
memory does not list reads as. The spec leaves the contents after power-on unspecified (R42) and says that no command
can observe them (R41 V9). -/
def Config.unlistedByte : Byte := 0

end Sys2Proof
end

