-- ==== Sys2Proof/Machine/State.lean ====
section
/-! DEFINITION. Everything the spec gives the unit (R20), its configuration (R32) and the two sides of the command port
that a run needs (R221), as plain data; and the state after reset (R42). -/

namespace Sys2Proof.Machine

/-- Why the model stops. The unit itself never stops: its failures are result codes in a response (R205, R208). -/
inductive Fault where
  /-- An access to the buffer at an offset at or above `CAP`, where there is no byte (R16, R21). Raised by the buffer
  operations of `Machine/Ops.lean` (`memRead1`, `memRead2`, `memBytes`, `memWriteBytes`), hence by any command that uses
  them, and only in states that no run reaches (R56). Safe: nothing follows about the hardware from a stop (log 5). -/
  | offsetBeyondCapacity (offset : Nat)
deriving DecidableEq, Repr

/-- Why the model gives a command no meaning. -/
inductive Refusal where
  /-- A command whose meaning is not written yet, raised by `exec`'s arm alone. No arm raises it now. Safe: nothing
  follows about the hardware from a refusal. -/
  | notModelled (mnemonic : String)
deriving DecidableEq, Repr

/-- The closed set of result codes (R200). -/
inductive ResultCode where
  /-- `OK`, 0. -/
  | ok
  /-- `ERR_BUFFER_LOCKED`, -1. -/
  | bufferLocked
  /-- `ERR_NOT_INITIALIZED`, -2. -/
  | notInitialized
  /-- `ERR_INVALID_STATE`, -3. -/
  | invalidState
  /-- `ERR_NO_ENOUGH_SPACE`, -4. -/
  | noEnoughSpace
  /-- `ERR_PACKAGE_ALREADY_COMPLETE`, -5. -/
  | packageAlreadyComplete
  /-- `ERR_PACKAGE_NOT_COMPLETE`, -6. -/
  | packageNotComplete
  /-- `ERR_PACKAGE_CORRUPTED`, -7. -/
  | packageCorrupted
  /-- `ERR_PACKAGE_NOT_VALID`, -8. -/
  | packageNotValid
  /-- `ERR_INVALID_PARAMETER`, -9. -/
  | invalidParameter
deriving DecidableEq, Repr

/-- One response: status, 16-bit value, data bytes (R95). Its packet form is `Response.toPacket` (DEDUCED, safe: log 7). -/
structure Response where
  status : ResultCode
  value : U16
  data : List Byte
deriving DecidableEq, Repr

/-- The 5-byte header snapshot register `HDR_SNAP[0] .. HDR_SNAP[4]` (R29). -/
structure HdrSnap where
  b0 : Byte
  b1 : Byte
  b2 : Byte
  b3 : Byte
  b4 : Byte
deriving DecidableEq, Repr

/-- The scratch buffer's bytes (R21) by offset, offsets strictly rising, no entry equal to `Config.unlistedByte`
(`Memory.wf`). -/
abbrev Memory := List Host.Cell

/-- The state of the unit (R20), its configuration, and the two lists of the command port (R221, log 3). -/
structure State where
  /-- The configuration, `CAP` (R9); no command changes it. -/
  config : Config
  /-- `buf`, the scratch buffer (R21). -/
  buf : Memory
  /-- `CURSOR`: how many bytes of the buffer are valid (R22). -/
  cursor : U16
  /-- `LOCK` (R23). -/
  lock : Bool
  /-- `HEADER_PRESENT` (R24). -/
  headerPresent : Bool
  /-- `PACKET_COMPLETE` (R25). -/
  packetComplete : Bool
  /-- `EXPECTED_LEN` (R26). -/
  expectedLen : U16
  /-- `LEN_VALID` (R27). -/
  lenValid : Bool
  /-- `HDR_OFF`: the frame start (R28). -/
  hdrOff : U16
  /-- `HDR_SNAP` (R29). -/
  hdrSnap : HdrSnap
  /-- `TX_STARTED` (R30). -/
  txStarted : Bool
  /-- The model's own field (log 3): the command packets the host has issued and the unit has not executed, oldest
  first (R221). -/
  pending : List (List Byte)
  /-- The model's own field (log 3): the responses given so far, oldest first (R221). -/
  responses : List Response
deriving DecidableEq, Repr

/-- The unit of capacity `cap` right after power-on, its buffer holding `contents`: every register and flag zero (R42),
the buffer's contents arbitrary (R43). -/
def State.resetWith (cap : U16) (contents : Memory) : State where
  config := ⟨cap⟩
  buf := contents
  cursor := 0
  lock := false
  headerPresent := false
  packetComplete := false
  expectedLen := 0
  lenValid := false
  hdrOff := 0
  hdrSnap := ⟨0, 0, 0, 0, 0⟩
  txStarted := false
  pending := []
  responses := []

/-- The machine right after reset (R42, R43): `State.resetWith` at the capacity of log 1, with nothing listed in the
buffer (log 2) and no command issued yet (log 3). -/
def State.reset : State := State.resetWith Config.resetCap []

end Sys2Proof.Machine
end

