-- ==== Sys2Proof/Machine/Layout.lean ====
section
/-! DEFINITION. The constants of the wire frame (R12, R70, R73) and the numbers of the result codes (R200). The
literals are taken as the spec writes them (R13, log 10). -/

namespace Sys2Proof.Machine

/-- `MAGIC`, the magic header `55 41 54 43 3A` (R12, R72). -/
def magic : List Byte := [0x55, 0x41, 0x54, 0x43, 0x3A]

/-- `HEADER_LEN` (R12). -/
abbrev headerLen : Nat := 5
/-- `LEN_OFF`: the message length field (R12). -/
abbrev lenOff : Nat := 5
/-- `SRC_OFF`: the source id (R12). -/
abbrev srcOff : Nat := 7
/-- `DST_OFF`: the destination id (R12). -/
abbrev dstOff : Nat := 8
/-- `TYPE_OFF`: the message type byte (R12). -/
abbrev typeOff : Nat := 9
/-- `COUNT_OFF`: the data item count (R12). -/
abbrev countOff : Nat := 10
/-- `ITEMS_OFF`: the first data item, and the length of the fixed prefix (R12). -/
abbrev itemsOff : Nat := 12
/-- `ITEM_HDR_LEN`: item type and item length (R12). -/
abbrev itemHdrLen : Nat := 3
/-- `TRAILER_LEN`: the checksum (R12). -/
abbrev trailerLen : Nat := 2
/-- `MIN_FRAME_LEN`: a frame with no item (R12). -/
abbrev minFrameLen : Nat := 14
/-- `NOT_FOUND`: the not-found sentinel of the header scan (R12, R161). -/
def notFound : U16 := 0xFFFF

/-- The number of a result code, 0 or a negative number (R200). -/
def ResultCode.number : ResultCode → Int
  | .ok => 0
  | .bufferLocked => -1
  | .notInitialized => -2
  | .invalidState => -3
  | .noEnoughSpace => -4
  | .packageAlreadyComplete => -5
  | .packageNotComplete => -6
  | .packageCorrupted => -7
  | .packageNotValid => -8
  | .invalidParameter => -9

/-- The status byte: the code's number as 8-bit two's complement (R96). -/
def ResultCode.statusByte (c : ResultCode) : Byte := BitVec.ofInt 8 c.number

/-- `sext_8`: reading a status byte back (R15). -/
def sext8 (b : Byte) : Int := if b.toNat < 128 then b.toNat else (b.toNat : Int) - 256

end Sys2Proof.Machine
end

