-- ==== Sys2Proof/Machine/Memory.lean ====
section
/-! DEFINITION. The buffer as a list of cells in one canonical form: reading and writing bytes and blocks. Bounds are
checked in `Machine/Ops.lean`, not here. -/

namespace Sys2Proof.Machine

/-- The byte at offset `a`; `Config.unlistedByte` where the memory lists none (log 2). -/
def Memory.read (a : Nat) : Memory → Byte
  | [] => Config.unlistedByte
  | (k, b) :: rest => if k = a then b else Memory.read a rest

/-- A cell in front of a memory, left out where it would hold what an unlisted offset reads as. -/
def Memory.cons (a : Nat) (v : Byte) (rest : Memory) : Memory :=
  if v = Config.unlistedByte then rest else (a, v) :: rest

/-- `buf[a] <- v` (R16), keeping the canonical form. -/
def Memory.write (a : Nat) (v : Byte) : Memory → Memory
  | [] => Memory.cons a v []
  | (k, b) :: rest =>
    if a < k then Memory.cons a v ((k, b) :: rest)
    else if a = k then Memory.cons a v rest
    else (k, b) :: Memory.write a v rest

/-- `buf[a+i] <- s[i]` for every byte of `s` (R16, `MemWriteBytes`). -/
def Memory.writeAll (a : Nat) : List Byte → Memory → Memory
  | [], m => m
  | v :: rest, m => Memory.writeAll (a + 1) rest (m.write a v)

/-- The `n` bytes from offset `a` up. -/
def Memory.readRange (m : Memory) : (a n : Nat) → List Byte
  | _, 0 => []
  | a, n + 1 => m.read a :: Memory.readRange m (a + 1) n

/-- The canonical form: offsets strictly rising and above every offset in `lo`, no cell holding the unlisted byte. -/
def Memory.wfFrom (lo : Nat) : Memory → Bool
  | [] => true
  | (k, b) :: rest => decide (lo ≤ k) && b != Config.unlistedByte && Memory.wfFrom (k + 1) rest

/-- The canonical form of a memory: equal contents are equal data. -/
def Memory.wf (m : Memory) : Bool := Memory.wfFrom 0 m

/-- Every listed offset exists in a buffer of `cap` bytes (R21). -/
def Memory.within (cap : Nat) (m : Memory) : Bool := m.all fun c => decide (c.1 < cap)

end Sys2Proof.Machine
end

