-- ==== Sys2Proof/Machine/Ops.lean ====
section
/-! DEFINITION. The named operations every meaning is written with: the pseudocode primitives (R16), the one way a
command fails (R17, R205) and the one way it answers (R95), and what the step does around a command. -/

namespace Sys2Proof.Machine

/-- How a command's pseudocode can end before its `return`. -/
inductive Stop where
  /-- `raise E` (R16). -/
  | raise (code : ResultCode)
  /-- The model stops (log 5). -/
  | fault (reason : Fault)
deriving DecidableEq, Repr

/-- A piece of pseudocode: it gives a value, raises a code, or stops. -/
abbrev Cmd (α : Type) := Except Stop α

/-- What a command's `return (v, d)` leaves: the state it wrote, the value and the data (R16). -/
structure Done where
  state : State
  value : U16 := 0
  data : List Byte := []
deriving DecidableEq, Repr

/-- `if p then raise E` (R16). -/
def raiseIf (p : Prop) [Decidable p] (code : ResultCode) : Cmd Unit :=
  if p then .error (.raise code) else .ok ()

/-- `CAP` as a number (R9). -/
def State.capacity (s : State) : Nat := s.config.cap.toNat

/-- The byte `buf[a]`. -/
def State.byteAt (s : State) (a : Nat) : Byte := s.buf.read a

/-- `MemRead(a, 1)`, `0 <= a < CAP` (R16). -/
def State.memRead1 (s : State) (a : Nat) : Cmd Byte :=
  if a < s.capacity then .ok (s.byteAt a) else .error (.fault (.offsetBeyondCapacity a))

/-- `MemRead(a, 2)`, little-endian, `a + 1 < CAP` (R16, R51). -/
def State.memRead2 (s : State) (a : Nat) : Cmd U16 :=
  if a + 1 < s.capacity then .ok (u16 (s.byteAt a) (s.byteAt (a + 1)))
  else .error (.fault (.offsetBeyondCapacity (a + 1)))

/-- The bytes `buf[a..b)`, empty when `a >= b` (R14). -/
def State.bytes (s : State) (a b : Nat) : List Byte := s.buf.readRange a (b - a)

/-- `MemBytes(a, b)` (R16). -/
def State.memBytes (s : State) (a b : Nat) : Cmd (List Byte) :=
  if b ≤ a ∨ b ≤ s.capacity then .ok (s.bytes a b) else .error (.fault (.offsetBeyondCapacity (b - 1)))

/-- The state with other buffer contents. -/
def State.withBuf (s : State) (buf : Memory) : State := { s with buf := buf }

/-- `MemWriteBytes(a, bs)` (R16). -/
def State.memWriteBytes (s : State) (a : Nat) (bs : List Byte) : Cmd State :=
  if bs.length = 0 ∨ a + bs.length ≤ s.capacity then .ok (s.withBuf (s.buf.writeAll a bs))
  else .error (.fault (.offsetBeyondCapacity (a + bs.length - 1)))

/-- `MemWrite(a, 1, v)` (R16). -/
def State.memWrite1 (s : State) (a : Nat) (v : Byte) : Cmd State := s.memWriteBytes a [v]

/-- `MemWrite(a, 2, v)`, little-endian (R16, R51). -/
def State.memWrite2 (s : State) (a : Nat) (v : U16) : Cmd State := s.memWriteBytes a (le16 v)

/-- The unit gives one response (R95): it is added behind those given before (R221). -/
def State.respond (s : State) (r : Response) : State := { s with responses := s.responses ++ [r] }

/-- The response of a failing command: its code, value 0, no data (R95, R200). -/
def Response.failing (code : ResultCode) : Response := ⟨code, 0, []⟩

/-- Failure entry, the unit's only exception: the response carries the code and nothing else happens; no register,
flag or buffer byte changes, nothing is saved, and the next command starts clean (R205, R208). -/
def State.fail (s : State) (code : ResultCode) : State := s.respond (.failing code)

/-- The end of a command issued in state `s` (R17): its `return` leaves the state it wrote and answers `OK` (R97); its
first `raise` leaves `s` as it was and answers the code. -/
def State.answer (s : State) (c : Cmd Done) : Host.Outcome State Fault Refusal :=
  match c with
  | .ok d => .next (d.state.respond ⟨.ok, d.value, d.data⟩)
  | .error (.raise code) => .next (s.fail code)
  | .error (.fault reason) => .fault reason

/-- A query's `return (v, d)`: nothing is written (R53). -/
def State.reply (s : State) (value : U16) (data : List Byte := []) : Done := ⟨s, value, data⟩

/-- The response packet: status, value, number of data bytes, data (R95). -/
def Response.toPacket (r : Response) : List Byte :=
  r.status.statusByte :: (le16 r.value ++ (le16 (BitVec.ofNat 16 r.data.length) ++ r.data))

/-- The host takes the next command packet off the port (R8, R85); `none` when it has issued none. -/
def State.fetch (s : State) : Option (List Byte × State) :=
  match s.pending with
  | [] => none
  | packet :: rest => some (packet, { s with pending := rest })

/-- The unit's answer to a malformed packet: `ERR_INVALID_PARAMETER`, no state change (R93). -/
def State.answerMalformed (s : State) (_why : DecodeError) : Host.Outcome State Fault Refusal :=
  .next (s.fail .invalidParameter)

/-- The unit between commands: it takes no step by itself (R8, R220), so nothing changes (log 4). -/
def State.idle (s : State) : Host.Outcome State Fault Refusal := .next s

end Sys2Proof.Machine
end

