-- ==== Sys2Proof/Machine/Checksum.lean ====
section
/-! DEFINITION. The CRC-16 checksum unit (R185) and the command that exposes it (R190). -/

namespace Sys2Proof.Machine

/-- One of the eight inner steps: `r >> 1`, with `0x8408` xored in when bit 0 was 1 (R185). -/
def crcBit (r : U16) : U16 := if r.getLsbD 0 then (r >>> 1) ^^^ 0x8408 else r >>> 1

/-- The eight inner steps (R185). -/
def crcBits (r : U16) : U16 := crcBit (crcBit (crcBit (crcBit (crcBit (crcBit (crcBit (crcBit r)))))))

/-- One byte into the register: xored into the low 8 bits, then the eight inner steps (R185). -/
def crcByte (r : U16) (b : Byte) : U16 := crcBits (r ^^^ b.setWidth 16)

/-- The register after the bytes of `bs`, started from `r` (R185). -/
def crcRun (r : U16) (bs : List Byte) : U16 := bs.foldl crcByte r

/-- `Crc16(bs)`: seed `0xFFFF`, final xor `0xFFFF` (R185). -/
def crc16Of (bs : List Byte) : U16 := crcRun 0xFFFF bs ^^^ 0xFFFF

/-- The byte-at-a-time table `T[i]`: the inner loop run on the 16-bit value `i` (R186). -/
def crcTable (i : Byte) : U16 := crcBits (i.setWidth 16)

/-- The byte step of the equivalent table form, `(r >> 8) xor T[(r xor b) and 0xFF]` (R186, informative). -/
def crcByteByTable (r : U16) (b : Byte) : U16 :=
  (r >>> 8) ^^^ crcTable (((r ^^^ b.setWidth 16) &&& 0xFF).setWidth 8)

/-- `CRC16 n, bytes` (R190). -/
def execCrc16 (_n : U16) (bytes : List Byte) (s : State) : Host.Outcome State Fault Refusal :=
  s.answer (.ok (s.reply (crc16Of bytes)))

end Sys2Proof.Machine
end

