-- ==== Sys2Proof/Machine/Flags.lean ====
section
/-! DEFINITION. The flags: the `STATUS` word of the five 1-bit flags (R35, R36), the phase they name (R34), the common
entry checks that read them (R119), and the fields of the message type byte (R73). No command computes an arithmetic
condition code (R35). -/

namespace Sys2Proof.Machine

/-- `LOCK + 2*HEADER_PRESENT + 4*PACKET_COMPLETE + 8*LEN_VALID + 16*TX_STARTED`, bits 15:5 zero (R36, R175). -/
def State.statusWord (s : State) : U16 :=
  BitVec.ofNat 16 (s.lock.toNat + 2 * s.headerPresent.toNat + 4 * s.packetComplete.toNat + 8 * s.lenValid.toNat +
    16 * s.txStarted.toNat)

/-- The names of the combinations of flags (R34). -/
inductive Phase where
  | hunt | length | body | rxDone | txBuild | txDone
deriving DecidableEq, Repr

/-- The phase of a state (R34): a function of the flags, not stored. It takes the rows of the table in the order
complete, length known, header located, none; in every reachable state exactly one row applies (R41); the
order is DESIGN CHOICE, safe (log 12). -/
def State.phase (s : State) : Phase :=
  match s.txStarted, s.packetComplete, s.lenValid, s.headerPresent with
  | true, true, _, _ => .txDone
  | true, false, _, _ => .txBuild
  | false, true, _, _ => .rxDone
  | false, false, true, _ => .body
  | false, false, false, true => .length
  | false, false, false, false => .hunt

/-- The lock check, the first check of every command it guards (R203). -/
def lockCheck (s : State) : Cmd Unit := raiseIf (s.lock = true) .bufferLocked

/-- `BuilderCheck()` (R119). -/
def builderCheck (s : State) : Cmd Unit := do
  lockCheck s
  raiseIf (s.packetComplete = true) .packageAlreadyComplete
  raiseIf (s.txStarted = false) .invalidState

/-- `ACK_STATUS`, bits 1:0 of the message type byte (R73). -/
def ackStatusField (type : Byte) : U16 := BitVec.ofNat 16 (type.toNat % 4)

/-- `ACK_REQUEST`, bit 2 of the message type byte (R73). -/
def ackRequestField (type : Byte) : U16 := BitVec.ofNat 16 (type.toNat / 4 % 2)

/-- `KIND`, bits 7:3 of the message type byte (R73); no command returns it (R75). -/
def kindField (type : Byte) : Nat := type.toNat / 8

/-- `ACK_REQUEST <- 1` (R111). -/
def setAckRequest (type : Byte) : Byte := type ||| 0x04

/-- `ACK_STATUS <- code`, the field overwritten (R112, R113). -/
def setAckStatus (code type : Byte) : Byte := (type &&& 0xFC) ||| code

/-- `ACK_STATUS` code of an ACK (R74). -/
def ackCode : Byte := 0x01

/-- `ACK_STATUS` code of a NACK (R74). -/
def nackCode : Byte := 0x02

/-- The type byte of a fresh data frame: `KIND` 2, no ack flags (R75, R110). -/
def freshTypeByte : Byte := 0x10

end Sys2Proof.Machine
end

