-- ==== Sys2Proof/Machine/Operands.lean ====
section
/-! DEFINITION. What the commands address: the read-only register map (R36), the frame in the buffer and its validity
(R55, R138), the item section and its walk (R143, R144), and the data item descriptor (R98). -/

namespace Sys2Proof.Machine

/-- `RegisterContent(reg)` for `reg` in `0..7` (R36, R175); `none` for a reserved number. -/
def State.registerContent (s : State) (reg : Byte) : Option U16 :=
  match reg.toNat with
  | 0 => some s.statusWord
  | 1 => some s.cursor
  | 2 => some s.expectedLen
  | 3 => some s.hdrOff
  | 4 => some (u16 s.hdrSnap.b0 s.hdrSnap.b1)
  | 5 => some (u16 s.hdrSnap.b2 s.hdrSnap.b3)
  | 6 => some (u16 s.hdrSnap.b4 0)
  | 7 => some s.config.cap
  | _ => none

/-- The header snapshot of five bytes (R29). -/
def HdrSnap.ofBytes (bs : List Byte) : HdrSnap :=
  ⟨bs.getD 0 0, bs.getD 1 0, bs.getD 2 0, bs.getD 3 0, bs.getD 4 0⟩

/-- `HDR_SNAP = 00 00 00 00 00` (R42). -/
def HdrSnap.zero : HdrSnap := ⟨0, 0, 0, 0, 0⟩

/-- The five bytes of a snapshot, `HDR_SNAP[0]` first (R29). -/
def HdrSnap.toBytes (h : HdrSnap) : List Byte := [h.b0, h.b1, h.b2, h.b3, h.b4]

/-- `ItemsEnd = HDR_OFF + EXPECTED_LEN - 2`, the offset of the trailer (R143). -/
def State.itemsEnd (s : State) : Nat := s.hdrOff.toNat + s.expectedLen.toNat - trailerLen

/-- The start of the item section, `HDR_OFF + 12` (R143). -/
def State.itemsStart (s : State) : Nat := s.hdrOff.toNat + itemsOff

/-- `Validate()` (R138): the first result reached is the answer; nothing is written. -/
def validate (s : State) : Cmd ResultCode :=
  if s.packetComplete = false then .ok .packageNotComplete
  else if s.expectedLen.toNat < minFrameLen then .ok .packageCorrupted
  else do
    let trailer ← s.memRead2 s.itemsEnd
    let frameBody ← s.memBytes s.hdrOff.toNat s.itemsEnd
    if trailer ≠ crc16Of frameBody then .ok .packageCorrupted
    else do
      let header ← s.memBytes s.hdrOff.toNat (s.hdrOff.toNat + headerLen)
      if header ≠ magic then .ok .packageNotValid else .ok .ok

/-- `RequireValid()`: fails with `Validate()`'s own code (R145). -/
def requireValid (s : State) : Cmd Unit := do
  let code ← validate s
  raiseIf (code ≠ .ok) code

/-- The 1-byte field at frame offset `off` (R55). -/
def State.frameByte (s : State) (off : Nat) : Cmd Byte := s.memRead1 (s.hdrOff.toNat + off)

/-- The 2-byte field at frame offset `off` (R55). -/
def State.frameWord (s : State) (off : Nat) : Cmd U16 := s.memRead2 (s.hdrOff.toNat + off)

/-- `Walk(k)` from the item at offset `p` on (R144): the offset and the payload length of the `k`-th item from there, or
`none` for `OFF_SECTION`. The offset is the walker pointer, local to one evaluation (R33). -/
def walkFrom (s : State) : (k p : Nat) → Cmd (Option (Nat × Nat))
  | 0, p =>
    if p + itemHdrLen > s.itemsEnd then .ok none
    else do
      let len ← s.memRead2 (p + 1)
      if p + itemHdrLen + len.toNat > s.itemsEnd then .ok none else .ok (some (p, len.toNat))
  | k + 1, p =>
    if p + itemHdrLen > s.itemsEnd then .ok none
    else do
      let len ← s.memRead2 (p + 1)
      if p + itemHdrLen + len.toNat > s.itemsEnd then .ok none
      else walkFrom s k (p + itemHdrLen + len.toNat)

/-- `Walk(k)` (R144). -/
def walk (s : State) (k : Nat) : Cmd (Option (Nat × Nat)) := walkFrom s k s.itemsStart

/-- The descriptor of a data item: payload offset, type, length (R98). -/
def descriptor (off : U16) (type : Byte) (len : U16) : List Byte := le16 off ++ type :: le16 len

end Sys2Proof.Machine
end

