-- ==== Sys2Proof/Machine/Lifecycle.lean ====
section
/-! DEFINITION. Buffer lock, reset and state read-out (R170 to R175). -/

namespace Sys2Proof.Machine

/-- `RESET_BUFFER` (R173): every register and flag to its reset value, `buf` not written, not refused while locked. -/
def execResetBuffer (s : State) : Host.Outcome State Fault Refusal :=
  s.answer <| .ok { state :=
    { s with
      cursor := 0, packetComplete := false, headerPresent := false, expectedLen := 0, lock := false
      lenValid := false, txStarted := false, hdrOff := 0, hdrSnap := .zero } }

/-- `LOCK_BUFFER`: a test-and-set (R170). -/
def execLockBuffer (s : State) : Host.Outcome State Fault Refusal :=
  s.answer do
    lockCheck s
    return { state := { s with lock := true } }

/-- `UNLOCK_BUFFER` (R171). -/
def execUnlockBuffer (s : State) : Host.Outcome State Fault Refusal :=
  s.answer <| .ok { state := { s with lock := false } }

/-- `GET_LOCK_STATUS` (R172). -/
def execGetLockStatus (s : State) : Host.Outcome State Fault Refusal :=
  s.answer <| .ok (s.reply (BitVec.ofNat 16 s.lock.toNat))

/-- `READ_REG reg` (R175). -/
def execReadReg (reg : Byte) (s : State) : Host.Outcome State Fault Refusal :=
  s.answer <|
    match s.registerContent reg with
    | none => .error (.raise .invalidParameter)
    | some content => .ok (s.reply content)

end Sys2Proof.Machine
end

