-- ==== Sys2Proof/Machine/Scan.lean ====
section
/-! DEFINITION. The header-locator scan (R160), its streaming form (R133), and the two stateless scan commands
(R161, R162). -/

namespace Sys2Proof.Machine

/-- `FindMagic(s)`: the least offset at which all five bytes of `MAGIC` stand, if any (R160). -/
def findMagic : List Byte → Option Nat
  | [] => none
  | b :: rest => if (b :: rest).take headerLen = magic then some 0 else (findMagic rest).map (· + 1)

/-- One byte into the streaming matcher's counter `m` (R133, informative; not architectural state). -/
def matchByte (m : Nat) (b : Byte) : Nat :=
  if magic[m]? = some b then m + 1 else if b = 0x55 then 1 else 0

/-- The streaming matcher over a byte string whose first byte lands at offset `i`, counter `m` (R133): it stops with
`i - 4` at the byte that brings the counter to 5. -/
def streamMatch (m i : Nat) : List Byte → Option Nat
  | [] => none
  | b :: rest =>
    if matchByte m b = headerLen then some (i - 4) else streamMatch (matchByte m b) (i + 1) rest

/-- The response value of a scan: the offset found, or `NOT_FOUND` (R161). -/
def scanValue (found : Option Nat) : U16 :=
  match found with
  | none => notFound
  | some p => BitVec.ofNat 16 p

/-- `FIND_HEADER_POSITION n, bytes` (R161). -/
def execFindHeaderPosition (_n : U16) (bytes : List Byte) (s : State) : Host.Outcome State Fault Refusal :=
  s.answer (.ok (s.reply (scanValue (findMagic bytes))))

/-- `GET_MESSAGE_BUFFER_LEN hpos, n, bytes` (R162). -/
def execGetMessageBufferLen (hpos n : U16) (bytes : List Byte) (s : State) : Host.Outcome State Fault Refusal :=
  s.answer do
    raiseIf (hpos.toNat + 7 > n.toNat) .invalidParameter
    return s.reply (u16 (bytes.getD (hpos.toNat + 5) 0) (bytes.getD (hpos.toNat + 6) 0))

end Sys2Proof.Machine
end

