-- ==== Sys2Proof/Machine/Receive.lean ====
section
/-! DEFINITION. The receive path: synchronizer and parser (R130 to R137), validation (R138 to R141) and the reading of
the frame (R142 to R152). -/

namespace Sys2Proof.Machine

/-- Step 1 of the parse, the header detector (R131): it runs only while `HEADER_PRESENT = 0`. -/
def detectHeader (s : State) : Cmd State :=
  if s.headerPresent then .ok s
  else do
    let accumulated ← s.memBytes 0 s.cursor.toNat
    match findMagic accumulated with
    | none => .ok s
    | some p => do
      let header ← s.memBytes p (p + headerLen)
      .ok { s with headerPresent := true, hdrOff := BitVec.ofNat 16 p, hdrSnap := .ofBytes header }

/-- Step 2 of the parse, the length field (R135): no check is made on the value. -/
def parseLength (s : State) : Cmd State :=
  if s.headerPresent = true ∧ s.lenValid = false ∧ s.cursor.toNat ≥ s.hdrOff.toNat + 7 then do
    let len ← s.memRead2 (s.hdrOff.toNat + lenOff)
    .ok { s with expectedLen := len, lenValid := true }
  else .ok s

/-- Step 3 of the parse, completion (R136): the frame's end in the buffer has been reached. -/
def completeFrame (s : State) : State :=
  if s.headerPresent = true ∧ s.lenValid = true ∧ s.cursor.toNat ≥ s.hdrOff.toNat + s.expectedLen.toNat then
    { s with packetComplete := true }
  else s

/-- `ADD_RECEIVED_BYTES n, bytes` (R130): the chunk appended, then the three parse steps in order. -/
def execAddReceivedBytes (n : U16) (bytes : List Byte) (s : State) : Host.Outcome State Fault Refusal :=
  s.answer do
    lockCheck s
    raiseIf (s.txStarted = true) .invalidState
    raiseIf (s.cursor.toNat + n.toNat > s.capacity) .noEnoughSpace
    let at0 := s.cursor.toNat
    let s ← s.memWriteBytes at0 bytes
    let s ← detectHeader { s with cursor := BitVec.ofNat 16 (at0 + n.toNat) }
    let s ← parseLength s
    return { state := completeFrame s }

/-- `DATA_AVAILABLE` (R140): the status is always `OK`. -/
def execDataAvailable (s : State) : Host.Outcome State Fault Refusal :=
  s.answer do
    let code ← validate s
    return s.reply (if code = .ok then 1 else 0)

/-- `VALIDATE_DATA` (R141). -/
def execValidateData (s : State) : Host.Outcome State Fault Refusal :=
  s.answer do
    requireValid s
    return s.reply 0

/-- `GET_DATA_COUNT` (R142). -/
def execGetDataCount (s : State) : Host.Outcome State Fault Refusal :=
  s.answer do
    requireValid s
    let count ← s.frameWord countOff
    return s.reply count

/-- `GET_DATA_INFO k` (R146). -/
def execGetDataInfo (k : U16) (s : State) : Host.Outcome State Fault Refusal :=
  s.answer do
    requireValid s
    let count ← s.frameWord countOff
    raiseIf (k.toNat ≥ count.toNat) .invalidParameter
    match ← walk s k.toNat with
    | none => .error (.raise .packageNotValid)
    | some (p, len) => do
      let type ← s.memRead1 p
      let off : U16 := BitVec.ofNat 16 (p + itemHdrLen)
      return s.reply off (descriptor off type (BitVec.ofNat 16 len))

/-- `GET_DATA off, type, n, max` (R148): `type` is ignored; the range is confined to the item section. -/
def execGetData (off : U16) (_type : Byte) (n max : U16) (s : State) : Host.Outcome State Fault Refusal :=
  s.answer do
    requireValid s
    raiseIf (max.toNat < n.toNat) .noEnoughSpace
    raiseIf (off.toNat < s.itemsStart ∨ off.toNat + n.toNat > s.itemsEnd) .invalidParameter
    let payload ← s.memBytes off.toNat (off.toNat + n.toNat)
    return s.reply n payload

/-- `GET_SOURCE_ID` (R149). -/
def execGetSourceId (s : State) : Host.Outcome State Fault Refusal :=
  s.answer do
    requireValid s
    let id ← s.frameByte srcOff
    return s.reply (id.setWidth 16)

/-- `GET_DESTINATION_ID` (R150). -/
def execGetDestinationId (s : State) : Host.Outcome State Fault Refusal :=
  s.answer do
    requireValid s
    let id ← s.frameByte dstOff
    return s.reply (id.setWidth 16)

/-- `GET_ACK_STATUS` (R151). -/
def execGetAckStatus (s : State) : Host.Outcome State Fault Refusal :=
  s.answer do
    requireValid s
    let type ← s.frameByte typeOff
    return s.reply (ackStatusField type)

/-- `GET_ACK_REQUEST` (R152). -/
def execGetAckRequest (s : State) : Host.Outcome State Fault Refusal :=
  s.answer do
    requireValid s
    let type ← s.frameByte typeOff
    return s.reply (ackRequestField type)

end Sys2Proof.Machine
end

