-- ==== Sys2Proof/Machine/Transmit.lean ====
section
/-! DEFINITION. The builder commands (R110 to R119). -/

namespace Sys2Proof.Machine

/-- `START_NEW_MESSAGE src, dst` (R110): discards what the buffer held and opens a build. -/
def execStartNewMessage (src dst : Byte) (s : State) : Host.Outcome State Fault Refusal :=
  s.answer do
    lockCheck s
    raiseIf (s.capacity < itemsOff) .notInitialized
    let s ← s.memWriteBytes 0 magic
    let s ← s.memWrite2 lenOff 0
    let s ← s.memWrite1 srcOff src
    let s ← s.memWrite1 dstOff dst
    let s ← s.memWrite1 typeOff freshTypeByte
    let s ← s.memWrite2 countOff 0
    return { state :=
      { s with
        cursor := 12, headerPresent := false, packetComplete := false, lenValid := false
        expectedLen := 0, hdrOff := 0, hdrSnap := .zero, txStarted := true } }

/-- An ack setter: the message type byte of the open build patched in place, the cursor not moved (R54, R111). -/
def patchTypeByte (patch : Byte → Byte) (s : State) : Cmd Done := do
  builderCheck s
  let type ← s.memRead1 typeOff
  let s ← s.memWrite1 typeOff (patch type)
  return { state := s }

/-- `ADD_ACK_REQUEST` (R111). -/
def execAddAckRequest (s : State) : Host.Outcome State Fault Refusal :=
  s.answer (patchTypeByte setAckRequest s)

/-- `ADD_ACK_STATUS` (R112). -/
def execAddAckStatus (s : State) : Host.Outcome State Fault Refusal :=
  s.answer (patchTypeByte (setAckStatus ackCode) s)

/-- `ADD_NACK_STATUS` (R113). -/
def execAddNackStatus (s : State) : Host.Outcome State Fault Refusal :=
  s.answer (patchTypeByte (setAckStatus nackCode) s)

/-- `ADD_DATA type, n, payload` (R114): appends one item and increments the stored count in place. -/
def execAddData (type : Byte) (n : U16) (payload : List Byte) (s : State) : Host.Outcome State Fault Refusal :=
  s.answer do
    builderCheck s
    raiseIf (s.cursor.toNat + itemHdrLen + n.toNat > s.capacity) .noEnoughSpace
    let at0 := s.cursor.toNat
    let s ← s.memWrite1 at0 type
    let s ← s.memWrite2 (at0 + 1) n
    let s ← s.memWriteBytes (at0 + itemHdrLen) payload
    let count ← s.memRead2 countOff
    let s ← s.memWrite2 countOff (count + 1)
    return { state := { s with cursor := BitVec.ofNat 16 (at0 + itemHdrLen + n.toNat) } }

/-- `COMPLETE_MESSAGE` (R115): the length field first, then the checksum over every byte written so far, appended; the
build is complete, locked, and seen like the same frame received. -/
def execCompleteMessage (s : State) : Host.Outcome State Fault Refusal :=
  s.answer do
    builderCheck s
    raiseIf (s.cursor.toNat + trailerLen > s.capacity) .noEnoughSpace
    let at0 := s.cursor.toNat
    let len : U16 := BitVec.ofNat 16 (at0 + trailerLen)
    let s ← s.memWrite2 lenOff len
    let written ← s.memBytes 0 at0
    let s ← s.memWrite2 at0 (crc16Of written)
    let header ← s.memBytes 0 headerLen
    return { state :=
      { s with
        cursor := len, packetComplete := true, lock := true
        headerPresent := true, hdrOff := 0, hdrSnap := .ofBytes header
        expectedLen := len, lenValid := true }
             value := len }

/-- `GET_SEND_PACKET max` (R116): a query, not refused while locked, and not validating. -/
def execGetSendPacket (max : U16) (s : State) : Host.Outcome State Fault Refusal :=
  s.answer do
    raiseIf (s.packetComplete = false) .packageNotComplete
    raiseIf (max.toNat < s.expectedLen.toNat) .noEnoughSpace
    let frame ← s.memBytes s.hdrOff.toNat (s.hdrOff.toNat + s.expectedLen.toNat)
    return s.reply s.expectedLen frame

/-- The composite of start, ack setter and completion as one atomic command, its three checks in front (R117): a
control frame without items whose type byte is `type`. -/
def generate (type src dst : Byte) (s : State) : Cmd Done := do
  lockCheck s
  raiseIf (s.capacity < itemsOff) .notInitialized
  raiseIf (s.capacity < minFrameLen) .noEnoughSpace
  let s ← s.memWriteBytes 0 magic
  let s ← s.memWrite2 lenOff 14
  let s ← s.memWrite1 srcOff src
  let s ← s.memWrite1 dstOff dst
  let s ← s.memWrite1 typeOff type
  let s ← s.memWrite2 countOff 0
  let written ← s.memBytes 0 itemsOff
  let s ← s.memWrite2 itemsOff (crc16Of written)
  return { state :=
    { s with
      cursor := 14, txStarted := true, packetComplete := true, lock := true
      headerPresent := true, hdrOff := 0, hdrSnap := .ofBytes magic, expectedLen := 14, lenValid := true }
           value := 14 }

/-- `GENERATE_ACK_MESSAGE src, dst` (R117): type byte `0x11`. -/
def execGenerateAckMessage (src dst : Byte) (s : State) : Host.Outcome State Fault Refusal :=
  s.answer (generate 0x11 src dst s)

/-- `GENERATE_NACK_MESSAGE src, dst` (R118): type byte `0x12`. -/
def execGenerateNackMessage (src dst : Byte) (s : State) : Host.Outcome State Fault Refusal :=
  s.answer (generate 0x12 src dst s)

end Sys2Proof.Machine
end

