-- ==== Sys2Proof/Machine/Dispatch.lean ====
section
/-! DEFINITION. The meaning of every command, one arm each (R92). -/

namespace Sys2Proof.Machine

def exec (i : Instr) (s : State) : Host.Outcome State Fault Refusal :=
  match i with
  -- lifecycle
  | .resetBuffer => Sys2Proof.Machine.execResetBuffer s
  | .lockBuffer => Sys2Proof.Machine.execLockBuffer s
  | .unlockBuffer => Sys2Proof.Machine.execUnlockBuffer s
  | .getLockStatus => Sys2Proof.Machine.execGetLockStatus s
  | .readReg reg => Sys2Proof.Machine.execReadReg reg s
  -- transmit
  | .startNewMessage src dst => Sys2Proof.Machine.execStartNewMessage src dst s
  | .addAckRequest => Sys2Proof.Machine.execAddAckRequest s
  | .addAckStatus => Sys2Proof.Machine.execAddAckStatus s
  | .addNackStatus => Sys2Proof.Machine.execAddNackStatus s
  | .addData type n payload => Sys2Proof.Machine.execAddData type n payload s
  | .completeMessage => Sys2Proof.Machine.execCompleteMessage s
  | .getSendPacket max => Sys2Proof.Machine.execGetSendPacket max s
  | .generateAckMessage src dst => Sys2Proof.Machine.execGenerateAckMessage src dst s
  | .generateNackMessage src dst => Sys2Proof.Machine.execGenerateNackMessage src dst s
  -- receive
  | .addReceivedBytes n bytes => Sys2Proof.Machine.execAddReceivedBytes n bytes s
  | .dataAvailable => Sys2Proof.Machine.execDataAvailable s
  | .validateData => Sys2Proof.Machine.execValidateData s
  | .getDataCount => Sys2Proof.Machine.execGetDataCount s
  | .getDataInfo k => Sys2Proof.Machine.execGetDataInfo k s
  | .getData off type n max => Sys2Proof.Machine.execGetData off type n max s
  | .getSourceId => Sys2Proof.Machine.execGetSourceId s
  | .getDestinationId => Sys2Proof.Machine.execGetDestinationId s
  | .getAckStatus => Sys2Proof.Machine.execGetAckStatus s
  | .getAckRequest => Sys2Proof.Machine.execGetAckRequest s
  -- stateless scan and checksum
  | .findHeaderPosition n bytes => Sys2Proof.Machine.execFindHeaderPosition n bytes s
  | .getMessageBufferLen hpos n bytes => Sys2Proof.Machine.execGetMessageBufferLen hpos n bytes s
  | .crc16 n bytes => Sys2Proof.Machine.execCrc16 n bytes s

end Sys2Proof.Machine
end

