-- ==== Sys2Proof/Machine/Step.lean ====
section
/-! DEFINITION. One step of the unit: the next command packet of the port, decoded and executed as one atomic step with
one response (R8); and the host issuing one packet (log 3). -/

namespace Sys2Proof.Machine

/-- One step: a well-formed packet runs its command, a malformed one is answered (R93), and with no packet issued the
unit is idle (R8). -/
def step (s : State) : Host.Outcome State Fault Refusal :=
  match s.fetch with
  | none => s.idle
  | some (packet, s') =>
    match decode packet with
    | .error why => s'.answerMalformed why
    | .ok i => exec i s'

/-- The host issues the packet of an opcode-table word as the next command (log 3, log 8). -/
def State.withFetchWord (s : State) (nbits w : Nat) : State :=
  { s with pending := tablePacket nbits w :: s.pending }

end Sys2Proof.Machine
end

