-- ==== Sys2Proof/Machine/Frame.lean ====
section
/-! DEFINITION. The wire frame as a byte string of its own (R70 to R80), apart from any buffer. No command's meaning
uses this file: it is the terms in which claims speak of frames. -/

namespace Sys2Proof.Machine

/-- A data item before it is laid out: its opaque type tag and its payload (R76). -/
structure Item where
  type : Byte
  payload : List Byte
deriving DecidableEq, Repr

/-- The bytes of an item: type, length, payload (R76). -/
def Item.toBytes (it : Item) : List Byte :=
  it.type :: (le16 (BitVec.ofNat 16 it.payload.length) ++ it.payload)

/-- The item section: the items back to back, no padding (R77). -/
def itemsToBytes (items : List Item) : List Byte := items.flatMap Item.toBytes

/-- The first 12 bytes of a frame: magic, length, ids, type byte, count (R70). -/
def fixedPart (len : Nat) (src dst type : Byte) (count : Nat) : List Byte :=
  magic ++ (le16 (BitVec.ofNat 16 len) ++ (src :: dst :: type :: le16 (BitVec.ofNat 16 count)))

/-- The length of the frame that carries `items` (R71). -/
def frameLength (items : List Item) : Nat := minFrameLen + (itemsToBytes items).length

/-- Every byte of the frame before the trailer (R78). -/
def frameBody (src dst type : Byte) (items : List Item) : List Byte :=
  fixedPart (frameLength items) src dst type items.length ++ itemsToBytes items

/-- The frame that carries `items` (R70, R120). -/
def frameOf (src dst type : Byte) (items : List Item) : List Byte :=
  frameBody src dst type items ++ le16 (crc16Of (frameBody src dst type items))

/-- `U16(s, i)` of a byte string (R16). -/
def u16At (s : List Byte) (i : Nat) : U16 := u16 (s.getD i 0) (s.getD (i + 1) 0)

/-- The offset at which a walk of `k` items of the byte string `f` from offset `p` ends (R77). -/
def walkEnd (f : List Byte) : (k p : Nat) → Nat
  | 0, p => p
  | k + 1, p => walkEnd f k (p + itemHdrLen + (u16At f (p + 1)).toNat)

/-- Clauses (a), (b), (c) and (e) of a well-formed frame (R80), the ones that validation checks. -/
abbrev ValidFrame (f : List Byte) : Prop :=
  minFrameLen ≤ f.length ∧ f.take headerLen = magic ∧ (u16At f lenOff).toNat = f.length ∧
    u16At f (f.length - trailerLen) = crc16Of (f.take (f.length - trailerLen))

/-- A well-formed frame (R80). -/
abbrev WellFormedFrame (f : List Byte) : Prop :=
  ValidFrame f ∧ walkEnd f (u16At f countOff).toNat itemsOff = f.length - trailerLen

/-- The commands that change an open build without completing it (R119, R120). -/
def isBuildOp : Instr → Bool
  | .addAckRequest | .addAckStatus | .addNackStatus => true
  | .addData _ _ _ => true
  | .completeMessage => false
  | .resetBuffer | .lockBuffer | .unlockBuffer | .getLockStatus | .readReg _ => false
  | .startNewMessage _ _ | .getSendPacket _ | .generateAckMessage _ _ | .generateNackMessage _ _ => false
  | .addReceivedBytes _ _ | .dataAvailable | .validateData | .getDataCount | .getDataInfo _ | .getData _ _ _ _ => false
  | .getSourceId | .getDestinationId | .getAckStatus | .getAckRequest => false
  | .findHeaderPosition _ _ | .getMessageBufferLen _ _ _ | .crc16 _ _ => false

/-- The items that a sequence of builder commands adds, in order (R120). -/
def itemsOf : List Instr → List Item
  | [] => []
  | .addData type _ payload :: rest => ⟨type, payload⟩ :: itemsOf rest
  | _ :: rest => itemsOf rest

/-- The `ACK_STATUS` code after one more builder command: a status setter overwrites it (R112, R113). -/
def statusAfter (code : Byte) (i : Instr) : Byte :=
  if i = .addAckStatus then 1 else if i = .addNackStatus then 2 else code

/-- The `ACK_STATUS` code that the last status setter of a sequence wrote, 0 if there is none (R120). -/
def lastStatus (ops : List Instr) : Byte := ops.foldl statusAfter 0

/-- The type byte of the build that a sequence of builder commands leaves (R120). -/
def typeByteOf (ops : List Instr) : Byte :=
  0x10 ||| ((if .addAckRequest ∈ ops then 4 else 0) ||| lastStatus ops)

end Sys2Proof.Machine
end

