-- ==== Sys2Proof/Safety.lean ====
section
/-! DEFINITION. The terms claims use: the invariants of the unit (R41), the sets and tables of commands that the rules
give (R23, R31, R35, R202), and runs of several commands (R221). -/

namespace Sys2Proof.Machine

/-- The buffer is in its one canonical form and lists offsets below `CAP` only (R21). -/
abbrev State.bufferOk (s : State) : Prop := s.buf.wf = true ∧ s.buf.within s.capacity = true

/-- V1 (R41). -/
abbrev State.cursorInBuffer (s : State) : Prop := s.cursor.toNat ≤ s.capacity

/-- V2 (R41). -/
abbrev State.lengthHasHeader (s : State) : Prop := s.lenValid = true → s.headerPresent = true

/-- V3 (R41). -/
abbrev State.completeHasFrame (s : State) : Prop :=
  s.packetComplete = true → s.lenValid = true ∧ s.hdrOff.toNat + s.expectedLen.toNat ≤ s.cursor.toNat

/-- V4 (R41). -/
abbrev State.headerIsMagic (s : State) : Prop :=
  s.headerPresent = true →
    s.hdrOff.toNat + 5 ≤ s.cursor.toNat ∧ s.bytes s.hdrOff.toNat (s.hdrOff.toNat + 5) = magic ∧
      s.hdrSnap.toBytes = magic

/-- V5 (R41). -/
abbrev State.lengthIsField (s : State) : Prop :=
  s.lenValid = true →
    s.hdrOff.toNat + 7 ≤ s.cursor.toNat ∧
      s.expectedLen = u16 (s.byteAt (s.hdrOff.toNat + 5)) (s.byteAt (s.hdrOff.toNat + 6))

/-- V6 (R41). -/
abbrev State.buildIsStarted (s : State) : Prop :=
  (s.txStarted = true → 12 ≤ s.capacity ∧ 12 ≤ s.cursor.toNat ∧ s.hdrOff = 0 ∧ s.bytes 0 5 = magic) ∧
    (s.txStarted = true → s.packetComplete = false → s.headerPresent = false ∧ s.lenValid = false)

/-- V10 (R41). -/
abbrev State.headerIsFirst (s : State) : Prop :=
  s.txStarted = false →
    (s.headerPresent = false → findMagic (s.bytes 0 s.cursor.toNat) = none) ∧
      (s.headerPresent = true → findMagic (s.bytes 0 s.cursor.toNat) = some s.hdrOff.toNat)

/-- V11 (R41). -/
abbrev State.completedBuildIsValid (s : State) : Prop :=
  s.packetComplete = true → s.txStarted = true → validate s = .ok .ok

/-- The invariants of R41 that speak of one state (V1 to V6, V10, V11), and the canonical buffer. V7, V8, V9 and V12
speak of a command or a sequence of commands. -/
abbrev State.Inv (s : State) : Prop :=
  s.bufferOk ∧ s.cursorInBuffer ∧ s.lengthHasHeader ∧ s.completeHasFrame ∧ s.headerIsMagic ∧ s.lengthIsField ∧
    s.buildIsStarted ∧ s.headerIsFirst ∧ s.completedBuildIsValid

/-- The frame in the buffer is valid: complete, its declared length at least 14, its trailer the checksum of every byte
before it, `MAGIC` in front (the glossary's "valid"; R138). -/
abbrev State.frameValid (s : State) : Prop :=
  s.packetComplete = true ∧ 14 ≤ s.expectedLen.toNat ∧
    u16 (s.byteAt (s.hdrOff.toNat + s.expectedLen.toNat - 2)) (s.byteAt (s.hdrOff.toNat + s.expectedLen.toNat - 1)) =
      crc16Of (s.bytes s.hdrOff.toNat (s.hdrOff.toNat + s.expectedLen.toNat - 2)) ∧
    s.bytes s.hdrOff.toNat (s.hdrOff.toNat + 5) = magic

/-- The data item count field of the frame in the buffer (R55, R142). -/
def State.countField (s : State) : U16 := u16 (s.byteAt (s.hdrOff.toNat + 10)) (s.byteAt (s.hdrOff.toNat + 11))

/-- The item whose header stands at offset `p` (R144): its offset and length, or `none` when it has no room in the item
section. -/
def State.itemAt (s : State) (p : Nat) : Option (Nat × Nat) :=
  let len := (u16 (s.byteAt (p + 1)) (s.byteAt (p + 2))).toNat
  if p + 3 > s.itemsEnd then none else if p + 3 + len > s.itemsEnd then none else some (p, len)

/-- The unit without the two lists of its port: the tuple of R20 and the configuration. -/
def State.unit (s : State) : State := { s with pending := [], responses := [] }

/-- The set of R23: the commands that the lock refuses. -/
def lockGuarded : Instr → Bool
  | .startNewMessage _ _ | .addAckRequest | .addAckStatus | .addNackStatus | .addData _ _ _ | .completeMessage => true
  | .generateAckMessage _ _ | .generateNackMessage _ _ | .addReceivedBytes _ _ | .lockBuffer => true
  | .resetBuffer | .unlockBuffer | .getLockStatus | .readReg _ | .getSendPacket _ => false
  | .dataAvailable | .validateData | .getDataCount | .getDataInfo _ | .getData _ _ _ _ => false
  | .getSourceId | .getDestinationId | .getAckStatus | .getAckRequest => false
  | .findHeaderPosition _ _ | .getMessageBufferLen _ _ _ | .crc16 _ _ => false

/-- The three failures of `BuilderCheck()`, in order (R119). -/
abbrev BuilderChecked (i : Instr) (s : State) : Prop :=
  (s.lock = true → exec i s = .next (s.fail .bufferLocked)) ∧
    (s.lock = false → s.packetComplete = true → exec i s = .next (s.fail .packageAlreadyComplete)) ∧
    (s.lock = false → s.packetComplete = false → s.txStarted = false → exec i s = .next (s.fail .invalidState))

/-- The commands whose rules say "State written: none". -/
def isQuery : Instr → Bool
  | .getLockStatus | .readReg _ | .getSendPacket _ => true
  | .dataAvailable | .validateData | .getDataCount | .getDataInfo _ | .getData _ _ _ _ => true
  | .getSourceId | .getDestinationId | .getAckStatus | .getAckRequest => true
  | .findHeaderPosition _ _ | .getMessageBufferLen _ _ _ | .crc16 _ _ => true
  | .resetBuffer | .lockBuffer | .unlockBuffer | .startNewMessage _ _ => false
  | .addAckRequest | .addAckStatus | .addNackStatus | .addData _ _ _ | .completeMessage => false
  | .generateAckMessage _ _ | .generateNackMessage _ _ | .addReceivedBytes _ _ => false

/-- The commands that read and write no state at all: the two scans and the checksum (R32). -/
def isStateless : Instr → Bool
  | .findHeaderPosition _ _ => true
  | .getMessageBufferLen _ _ _ => true
  | .crc16 _ _ => true
  | _ => false

/-- `RESET_BUFFER`. -/
def isReset (i : Instr) : Bool := i = .resetBuffer

/-- `START_NEW_MESSAGE`. -/
def isStart : Instr → Bool
  | .startNewMessage _ _ => true
  | _ => false

/-- `GENERATE_ACK_MESSAGE`, `GENERATE_NACK_MESSAGE`. -/
def isGenerate : Instr → Bool
  | .generateAckMessage _ _ => true
  | .generateNackMessage _ _ => true
  | _ => false

/-- `ADD_DATA`. -/
def isAddData : Instr → Bool
  | .addData _ _ _ => true
  | _ => false

/-- `ADD_RECEIVED_BYTES`. -/
def isReceive : Instr → Bool
  | .addReceivedBytes _ _ => true
  | _ => false

/-- The ack setters: `ADD_ACK_REQUEST`, `ADD_ACK_STATUS`, `ADD_NACK_STATUS`. -/
def isAckSetter (i : Instr) : Bool := i = .addAckRequest ∨ i = .addAckStatus ∨ i = .addNackStatus

/-- `COMPLETE_MESSAGE`. -/
def isComplete (i : Instr) : Bool := i = .completeMessage

/-- `START_NEW_MESSAGE`, `GENERATE_*`, `RESET_BUFFER`: the commands that discard what the buffer holds (R41 V8). -/
def discards (i : Instr) : Bool := isStart i || isGenerate i || isReset i

/-- The codes of a command's row of the failure matrix, in check order (R202). -/
def failureCodes : Instr → List ResultCode
  | .resetBuffer | .unlockBuffer | .getLockStatus | .dataAvailable => []
  | .findHeaderPosition _ _ | .crc16 _ _ => []
  | .lockBuffer => [.bufferLocked]
  | .readReg _ | .getMessageBufferLen _ _ _ => [.invalidParameter]
  | .startNewMessage _ _ => [.bufferLocked, .notInitialized]
  | .addAckRequest | .addAckStatus | .addNackStatus => [.bufferLocked, .packageAlreadyComplete, .invalidState]
  | .addData _ _ _ | .completeMessage => [.bufferLocked, .packageAlreadyComplete, .invalidState, .noEnoughSpace]
  | .getSendPacket _ => [.packageNotComplete, .noEnoughSpace]
  | .generateAckMessage _ _ | .generateNackMessage _ _ => [.bufferLocked, .notInitialized, .noEnoughSpace]
  | .addReceivedBytes _ _ => [.bufferLocked, .invalidState, .noEnoughSpace]
  | .validateData | .getDataCount | .getSourceId | .getDestinationId | .getAckStatus | .getAckRequest =>
    [.packageNotComplete, .packageCorrupted, .packageNotValid]
  | .getDataInfo _ => [.packageNotComplete, .packageCorrupted, .packageNotValid, .invalidParameter, .packageNotValid]
  | .getData _ _ _ _ => [.packageNotComplete, .packageCorrupted, .packageNotValid, .noEnoughSpace, .invalidParameter]

/-- A byte string that is no well-formed packet: it is empty, its opcode is none of R92's table, or its length is not
its format's packet length (R88, R93). -/
def Malformed (packet : List Byte) : Prop :=
  match packet with
  | [] => True
  | op :: _ =>
    match formatOf op with
    | none => True
    | some f => packet.length ≠ f.packetLength (f.lengthField packet)

/-- Whether the newest response of a state says `OK`. -/
def State.lastOk (s : State) : Bool := s.responses.getLast?.map (·.status) == some .ok

/-- Several commands issued one after the other (R221), each of which must answer `OK`. -/
def runOk : List Instr → State → Option State
  | [], s => some s
  | i :: rest, s =>
    match exec i s with
    | .next t => if t.lastOk then runOk rest t else none
    | .fault _ => none
    | .refused _ => none

/-- The command that feeds one chunk of the stream (R130). -/
abbrev feed (chunk : List Byte) : Instr := .addReceivedBytes (BitVec.ofNat 16 chunk.length) chunk

end Sys2Proof.Machine
end

