-- ==== Sys2Proof/Certificates/Slice0/Obligations.lean ====
section
/-! DEFINITION. The statements about the unit, one definition each. A clause about a failing command says the code, and
that the state is otherwise untouched, by `State.fail`; a clause about a completed command writes out the whole next
state, so it is the command's frame as well. -/

open Sys2Proof Sys2Proof.Machine

/-! Encoding. -/

/-- Decoding the packet of a well-formed command gives the command back, every operand at every value (R85 to R88). -/
def Obligations.DecodeInvertsEncode : Prop := ∀ i, WellFormed i → decode (encode i) = .ok i

/-- R93: the reserved opcodes; every byte string is exactly one well-formed command or malformed; a malformed packet is
answered `ERR_INVALID_PARAMETER` and changes no state. -/
def Obligations.EveryPacketIsOneCommandOrIsAnsweredMalformed : Prop :=
  (∀ op : Byte, formatOf op = none ↔
    op.toNat = 0 ∨ (0x06 ≤ op.toNat ∧ op.toNat ≤ 0x0F) ∨ (0x19 ≤ op.toNat ∧ op.toNat ≤ 0x1F) ∨
      (0x2A ≤ op.toNat ∧ op.toNat ≤ 0x2F) ∨ 0x33 ≤ op.toNat) ∧
  (∀ packet, ¬ Malformed packet →
    ∃ i, decode packet = .ok i ∧ WellFormed i ∧ ∀ j, ((WellFormed j ∧ encode j = packet) ↔ j = i)) ∧
  (∀ (s : State) packet rest, s.pending = packet :: rest → Malformed packet →
    step s = .next (State.fail { s with pending := rest } .invalidParameter))

/-- Packets written out from the encoding tables (R87, R92) decode to the commands they stand for. -/
def Obligations.PacketsFromTheTablesDecode : Prop :=
  decode [0x01] = .ok .resetBuffer ∧
  decode [0x05, 0x03] = .ok (.readReg 3) ∧
  decode [0x10, 0x01, 0x02] = .ok (.startNewMessage 1 2) ∧
  decode [0x16, 0x20, 0x01] = .ok (.getSendPacket 0x0120) ∧
  decode [0x14, 0x07, 0x03, 0x00, 0x10, 0x20, 0x30] = .ok (.addData 7 3 [0x10, 0x20, 0x30]) ∧
  decode [0x20, 0x02, 0x00, 0x55, 0x41] = .ok (.addReceivedBytes 2 [0x55, 0x41]) ∧
  decode [0x25, 0x0F, 0x01, 0x07, 0x03, 0x00, 0x10, 0x02] = .ok (.getData 0x010F 7 3 0x0210) ∧
  decode [0x31, 0x13, 0x00, 0x02, 0x00, 0x55, 0x41] = .ok (.getMessageBufferLen 0x13 2 [0x55, 0x41]) ∧
  decode [0x32, 0x01, 0x00, 0xFF] = .ok (.crc16 1 [0xFF])

/-- R95, R96: the response packet is status, value, data length, data, in this order, 16-bit fields little-endian; the
status byte is the code's number in two's complement. -/
def Obligations.ResponsePacketCarriesItsFields : Prop :=
  (∀ r : Response, r.data.length ≤ 65535 →
    r.toPacket.length = 5 + r.data.length ∧
    sext8 (r.toPacket.getD 0 0) = r.status.number ∧
    u16At r.toPacket 1 = r.value ∧
    (u16At r.toPacket 3).toNat = r.data.length ∧
    r.toPacket.drop 5 = r.data) ∧
  [ResultCode.ok, .bufferLocked, .notInitialized, .invalidState, .noEnoughSpace, .packageAlreadyComplete,
    .packageNotComplete, .packageCorrupted, .packageNotValid, .invalidParameter].map ResultCode.statusByte =
    [0x00, 0xFF, 0xFE, 0xFD, 0xFC, 0xFB, 0xFA, 0xF9, 0xF8, 0xF7]

/-! The step. -/

/-- A step runs the command that the next packet decodes to, on the state with that packet taken off the port. -/
def Obligations.StepRunsTheDecodedCommand : Prop :=
  ∀ (s : State) packet rest i, s.pending = packet :: rest → decode packet = .ok i →
    step s = exec i { s with pending := rest }

/-- The model's choice (log 4): with no packet issued the unit stays as it is. -/
def Obligations.StepWithNoPacketChangesNothing : Prop :=
  ∀ s : State, s.pending = [] → step s = .next s

/-- R8, R95: a step that takes a packet gives exactly one response, whose data fits its 16-bit length field, and no
step changes the capacity (R9). -/
def Obligations.EveryPacketGetsExactlyOneResponse : Prop :=
  ∀ (s t : State) packet rest, s.pending = packet :: rest → step s = .next t →
    t.config = s.config ∧ t.pending = rest ∧
    ∃ r : Response, t.responses = s.responses ++ [r] ∧ r.data.length ≤ 65535 ∧
      (r.status ≠ .ok → r.value = 0 ∧ r.data = [])

/-! Invariants and rules of the whole machine. -/

/-- R41, R42: the reset state has the invariants, whatever the capacity and the contents of the buffer. -/
def Obligations.ResetStateHasTheInvariants : Prop :=
  State.reset.Inv ∧
  ∀ (cap : U16) (contents : Memory), contents.wf = true → contents.within cap.toNat = true →
    (State.resetWith cap contents).Inv

/-- R41: every step keeps the invariants V1 to V6, V10, V11 and the canonical buffer. -/
def Obligations.EveryStepKeepsTheInvariants : Prop :=
  ∀ s t : State, s.Inv → step s = .next t → t.Inv

/-- R208, R56: from a state with the invariants no step stops: neither a fault nor a refusal. -/
def Obligations.InvariantStatesNeverStop : Prop :=
  ∀ s : State, s.Inv → ∃ t, step s = .next t

/-- R34: in a state with the invariants exactly the row of the phase applies. -/
def Obligations.ExactlyOnePhaseRowApplies : Prop :=
  ∀ s : State, s.Inv →
    (s.phase = .hunt ↔ s.txStarted = false ∧ s.headerPresent = false) ∧
    (s.phase = .length ↔ s.txStarted = false ∧ s.headerPresent = true ∧ s.lenValid = false) ∧
    (s.phase = .body ↔ s.txStarted = false ∧ s.lenValid = true ∧ s.packetComplete = false) ∧
    (s.phase = .rxDone ↔ s.txStarted = false ∧ s.packetComplete = true) ∧
    (s.phase = .txBuild ↔ s.txStarted = true ∧ s.packetComplete = false) ∧
    (s.phase = .txDone ↔ s.txStarted = true ∧ s.packetComplete = true)

/-- R205: the state after a failed command is the state before it but for the response, which carries the code alone. -/
def Obligations.FailedCommandsChangeNothing : Prop :=
  ∀ (i : Instr) (s t : State) (r : Response), exec i s = .next t → t.responses = s.responses ++ [r] →
    r.status ≠ .ok → t = s.fail r.status

/-- R203: the lock is tested first by the ten commands of R23; and (R174) unlocking and resetting clear it, and a query
that does not read the flag itself answers as if it were not there. -/
def Obligations.TheLockRefusesTheTenCommandsFirst : Prop :=
  ∀ (i : Instr) (s : State), s.lock = true →
    (lockGuarded i = true → exec i s = .next (s.fail .bufferLocked)) ∧
    (i = .unlockBuffer ∨ i = .resetBuffer → ∃ t, exec i s = .next t ∧ t.lastOk = true ∧ t.lock = false) ∧
    (isQuery i = true → i ≠ .getLockStatus → (∀ reg, i ≠ .readReg reg) → ∀ r,
      exec i { s with lock := false } = .next (State.respond { s with lock := false } r) →
        exec i s = .next (s.respond r))

/-- R53: a query writes nothing: it changes no register, flag or byte, it only answers. -/
def Obligations.QueriesOnlyAnswer : Prop :=
  ∀ (i : Instr) (s t : State), isQuery i = true → exec i s = .next t → ∃ r, t = s.respond r

/-- R202: every answer of a command is `OK` or a code of its row of the failure matrix. -/
def Obligations.AnswersStayInTheFailureMatrix : Prop :=
  ∀ (i : Instr) (s t : State) (r : Response), exec i s = .next t → t.responses = s.responses ++ [r] →
    r.status = .ok ∨ r.status ∈ failureCodes i

/-- R21 to R31, R35: each piece of state changes only under the commands its rule lists, each flag being set and
cleared only by the commands of the flag table. -/
def Obligations.StateChangesOnlyUnderTheListedCommands : Prop :=
  ∀ (i : Instr) (s t : State), exec i s = .next t →
    t.config = s.config ∧ t.pending = s.pending ∧
    (t.buf ≠ s.buf → (isStart i || isAckSetter i || isAddData i || isComplete i || isGenerate i || isReceive i) = true) ∧
    (t.cursor ≠ s.cursor →
      (isStart i || isAddData i || isComplete i || isGenerate i || isReceive i || isReset i) = true) ∧
    (t.expectedLen ≠ s.expectedLen ∨ t.hdrOff ≠ s.hdrOff ∨ t.hdrSnap ≠ s.hdrSnap →
      (isReceive i || isComplete i || isStart i || isReset i || isGenerate i) = true) ∧
    (s.lock = false → t.lock = true → (decide (i = .lockBuffer) || isComplete i || isGenerate i) = true) ∧
    (s.lock = true → t.lock = false → (decide (i = .unlockBuffer) || isReset i) = true) ∧
    (s.headerPresent = false → t.headerPresent = true → (isReceive i || isComplete i || isGenerate i) = true) ∧
    (s.headerPresent = true → t.headerPresent = false → (isReset i || isStart i) = true) ∧
    (s.packetComplete = false → t.packetComplete = true → (isReceive i || isComplete i || isGenerate i) = true) ∧
    (s.packetComplete = true → t.packetComplete = false → (isReset i || isStart i) = true) ∧
    (s.lenValid = false → t.lenValid = true → (isReceive i || isComplete i || isGenerate i) = true) ∧
    (s.lenValid = true → t.lenValid = false → (isReset i || isStart i) = true) ∧
    (s.txStarted = false → t.txStarted = true → (isStart i || isGenerate i) = true) ∧
    (s.txStarted = true → t.txStarted = false → isReset i = true)

/-- R41 V8: while a frame is complete only the discarding commands change a byte of it, its place or its length. -/
def Obligations.ACompleteFrameIsKept : Prop :=
  ∀ (i : Instr) (s t : State), s.Inv → s.packetComplete = true → discards i = false → exec i s = .next t →
    t.packetComplete = true ∧ t.hdrOff = s.hdrOff ∧ t.expectedLen = s.expectedLen ∧
    ∀ a, s.hdrOff.toNat ≤ a → a < s.hdrOff.toNat + s.expectedLen.toNat → t.byteAt a = s.byteAt a

/-- R41 V9: two states that differ only in bytes at or above the cursor give the same responses and stay such a pair. -/
def Obligations.BytesAboveTheCursorAreUnobservable : Prop :=
  ∀ (i : Instr) (s s' t : State), s.Inv → s'.Inv → WellFormed i →
    s' = { s with buf := s'.buf } → (∀ a, a < s.cursor.toNat → s'.byteAt a = s.byteAt a) → exec i s = .next t →
    ∃ t', exec i s' = .next t' ∧ t' = { t with buf := t'.buf } ∧ ∀ a, a < t.cursor.toNat → t'.byteAt a = t.byteAt a

/-- R138, R206: `Validate()` always has an answer in a state with the invariants, and it is never
`ERR_PACKAGE_NOT_VALID`. -/
def Obligations.ValidateNeverFindsAWrongHeader : Prop :=
  ∀ s : State, s.Inv → ∃ code, validate s = .ok code ∧ code ≠ .packageNotValid

/-! Lifecycle. -/

/-- R173, R42: `RESET_BUFFER` clears every register and flag, whatever the lock, leaves the buffer untouched, and so
gives the power-on state of the same unit. -/
def Obligations.ResetBufferRestoresTheResetState : Prop :=
  ∀ s t : State,
    t = { s with
      cursor := 0, packetComplete := false, headerPresent := false, expectedLen := 0, lock := false
      lenValid := false, txStarted := false, hdrOff := 0, hdrSnap := ⟨0, 0, 0, 0, 0⟩ } →
    exec .resetBuffer s = .next (t.respond ⟨.ok, 0, []⟩) ∧
    t = { State.resetWith s.config.cap s.buf with pending := s.pending, responses := s.responses }

/-- R170: `LOCK_BUFFER` is a test-and-set. -/
def Obligations.LockBufferTestsAndSets : Prop :=
  ∀ s : State,
    (s.lock = true → exec .lockBuffer s = .next (s.fail .bufferLocked)) ∧
    (s.lock = false → exec .lockBuffer s = .next (State.respond { s with lock := true } ⟨.ok, 0, []⟩))

/-- R171: `UNLOCK_BUFFER` clears the lock and nothing else, locked or not. -/
def Obligations.UnlockBufferClearsTheLock : Prop :=
  ∀ s : State, exec .unlockBuffer s = .next (State.respond { s with lock := false } ⟨.ok, 0, []⟩)

/-- R172: `GET_LOCK_STATUS` answers 1 when locked, 0 when not. -/
def Obligations.GetLockStatusReadsTheLock : Prop :=
  ∀ s : State, exec .getLockStatus s = .next (s.respond ⟨.ok, if s.lock = true then 1 else 0, []⟩)

/-- R36, R175: the register map of `READ_REG`, and the reserved numbers. -/
def Obligations.ReadRegReadsTheRegisterMap : Prop :=
  ∀ (s : State) (reg : Byte),
    (7 < reg.toNat → exec (.readReg reg) s = .next (s.fail .invalidParameter)) ∧
    (reg.toNat ≤ 7 → ∃ v : U16, exec (.readReg reg) s = .next (s.respond ⟨.ok, v, []⟩) ∧
      (reg = 0 → v.toNat = s.lock.toNat + 2 * s.headerPresent.toNat + 4 * s.packetComplete.toNat +
        8 * s.lenValid.toNat + 16 * s.txStarted.toNat) ∧
      (reg = 1 → v = s.cursor) ∧
      (reg = 2 → v = s.expectedLen) ∧
      (reg = 3 → v = s.hdrOff) ∧
      (reg = 4 → v.toNat = s.hdrSnap.b0.toNat + 256 * s.hdrSnap.b1.toNat) ∧
      (reg = 5 → v.toNat = s.hdrSnap.b2.toNat + 256 * s.hdrSnap.b3.toNat) ∧
      (reg = 6 → v.toNat = s.hdrSnap.b4.toNat) ∧
      (reg = 7 → v = s.config.cap))

/-! Transmit. -/

/-- R119: the three failures of the five commands that change an open build, in order; the check passes exactly in
phase `TX_BUILD` unlocked. -/
def Obligations.BuilderCommandsCheckInOrder : Prop :=
  (∀ (s : State) (i : Instr), isAckSetter i = true ∨ isAddData i = true ∨ isComplete i = true → BuilderChecked i s) ∧
  ∀ s : State, builderCheck s = .ok () ↔ s.phase = .txBuild ∧ s.lock = false

/-- R110: `START_NEW_MESSAGE` writes the 12 bytes of the fixed prefix and opens a build. -/
def Obligations.StartNewMessageOpensABuild : Prop :=
  ∀ (s : State) (src dst : Byte), s.bufferOk →
    (s.lock = true → exec (.startNewMessage src dst) s = .next (s.fail .bufferLocked)) ∧
    (s.lock = false → s.capacity < 12 → exec (.startNewMessage src dst) s = .next (s.fail .notInitialized)) ∧
    (s.lock = false → 12 ≤ s.capacity → ∃ m : Memory,
      exec (.startNewMessage src dst) s = .next (State.respond
        { s with
          buf := m, cursor := 12, headerPresent := false, packetComplete := false, lenValid := false
          expectedLen := 0, hdrOff := 0, hdrSnap := ⟨0, 0, 0, 0, 0⟩, txStarted := true } ⟨.ok, 0, []⟩) ∧
      ∀ a, m.read a =
        if a < 12 then [0x55, 0x41, 0x54, 0x43, 0x3A, 0, 0, src, dst, 0x10, 0, 0].getD a 0 else s.byteAt a)

/-- R111, R112, R113: each ack setter patches the message type byte in place, and only that byte. -/
def Obligations.AckSettersPatchTheTypeByte : Prop :=
  ∀ (s : State) (i : Instr) (patched : Byte), s.Inv →
    (i = .addAckRequest ∧ patched = s.byteAt 9 ||| 0x04) ∨
    (i = .addAckStatus ∧ patched = (s.byteAt 9 &&& 0xFC) ||| 0x01) ∨
    (i = .addNackStatus ∧ patched = (s.byteAt 9 &&& 0xFC) ||| 0x02) →
    BuilderChecked i s ∧
    (s.lock = false → s.packetComplete = false → s.txStarted = true → ∃ m : Memory,
      exec i s = .next (State.respond { s with buf := m } ⟨.ok, 0, []⟩) ∧
      ∀ a, m.read a = if a = 9 then patched else s.byteAt a)

/-- R114: `ADD_DATA` appends one item and increments the stored count. -/
def Obligations.AddDataAppendsOneItem : Prop :=
  ∀ (s : State) (type : Byte) (n : U16) (payload : List Byte), s.Inv → WellFormed (.addData type n payload) →
    BuilderChecked (.addData type n payload) s ∧
    (s.lock = false → s.packetComplete = false → s.txStarted = true → s.cursor.toNat + 3 + n.toNat > s.capacity →
      exec (.addData type n payload) s = .next (s.fail .noEnoughSpace)) ∧
    (s.lock = false → s.packetComplete = false → s.txStarted = true → s.cursor.toNat + 3 + n.toNat ≤ s.capacity →
      ∃ (m : Memory) (cursor : U16) (lo hi : Byte),
        exec (.addData type n payload) s =
          .next (State.respond { s with buf := m, cursor := cursor } ⟨.ok, 0, []⟩) ∧
        cursor.toNat = s.cursor.toNat + 3 + n.toNat ∧
        lo.toNat + 256 * hi.toNat = ((s.byteAt 10).toNat + 256 * (s.byteAt 11).toNat + 1) % 65536 ∧
        ∀ a, m.read a =
          if a = 10 then lo else if a = 11 then hi
          else if s.cursor.toNat ≤ a ∧ a < s.cursor.toNat + 3 + n.toNat then
            (type :: (le16 n ++ payload)).getD (a - s.cursor.toNat) 0
          else s.byteAt a)

/-- R115: `COMPLETE_MESSAGE` writes the final length, appends the checksum of every byte before it, and locks. -/
def Obligations.CompleteMessageFinishesTheFrame : Prop :=
  ∀ s : State, s.Inv →
    BuilderChecked .completeMessage s ∧
    (s.lock = false → s.packetComplete = false → s.txStarted = true → s.cursor.toNat + 2 > s.capacity →
      exec .completeMessage s = .next (s.fail .noEnoughSpace)) ∧
    (s.lock = false → s.packetComplete = false → s.txStarted = true → s.cursor.toNat + 2 ≤ s.capacity →
      ∃ (m : Memory) (len : U16),
        exec .completeMessage s = .next (State.respond
          { s with
            buf := m, cursor := len, packetComplete := true, lock := true, headerPresent := true, hdrOff := 0
            hdrSnap := ⟨0x55, 0x41, 0x54, 0x43, 0x3A⟩, expectedLen := len, lenValid := true } ⟨.ok, len, []⟩) ∧
        len.toNat = s.cursor.toNat + 2 ∧
        u16 (m.read 5) (m.read 6) = len ∧
        u16 (m.read s.cursor.toNat) (m.read (s.cursor.toNat + 1)) = crc16Of (m.readRange 0 s.cursor.toNat) ∧
        ∀ a, a ≠ 5 → a ≠ 6 → ¬ (s.cursor.toNat ≤ a ∧ a < s.cursor.toNat + 2) → m.read a = s.byteAt a)

/-- R116: `GET_SEND_PACKET` copies the whole frame out, locked or not, validating nothing. -/
def Obligations.GetSendPacketCopiesTheFrame : Prop :=
  ∀ (s : State) (max : U16), s.Inv →
    (s.packetComplete = false → exec (.getSendPacket max) s = .next (s.fail .packageNotComplete)) ∧
    (s.packetComplete = true → max.toNat < s.expectedLen.toNat →
      exec (.getSendPacket max) s = .next (s.fail .noEnoughSpace)) ∧
    (s.packetComplete = true → s.expectedLen.toNat ≤ max.toNat → ∃ frame : List Byte,
      exec (.getSendPacket max) s = .next (s.respond ⟨.ok, s.expectedLen, frame⟩) ∧
      frame.length = s.expectedLen.toNat ∧
      ∀ i, i < s.expectedLen.toNat → frame.getD i 0 = s.byteAt (s.hdrOff.toNat + i))

/-- R117, R118: the two composites build a whole control frame of 14 bytes, or do nothing. -/
def Obligations.GenerateBuildsAControlFrame : Prop :=
  ∀ (s : State) (src dst : Byte) (i : Instr) (type : Byte), s.bufferOk →
    (i = .generateAckMessage src dst ∧ type = 0x11) ∨ (i = .generateNackMessage src dst ∧ type = 0x12) →
    (s.lock = true → exec i s = .next (s.fail .bufferLocked)) ∧
    (s.lock = false → s.capacity < 12 → exec i s = .next (s.fail .notInitialized)) ∧
    (s.lock = false → 12 ≤ s.capacity → s.capacity < 14 → exec i s = .next (s.fail .noEnoughSpace)) ∧
    (s.lock = false → 14 ≤ s.capacity → ∃ m : Memory,
      exec i s = .next (State.respond
        { s with
          buf := m, cursor := 14, txStarted := true, packetComplete := true, lock := true
          headerPresent := true, hdrOff := 0, hdrSnap := ⟨0x55, 0x41, 0x54, 0x43, 0x3A⟩
          expectedLen := 14, lenValid := true } ⟨.ok, 14, []⟩) ∧
      u16 (m.read 12) (m.read 13) =
        crc16Of [0x55, 0x41, 0x54, 0x43, 0x3A, 14, 0, src, dst, type, 0, 0] ∧
      (∀ a, a < 12 → m.read a = [0x55, 0x41, 0x54, 0x43, 0x3A, 14, 0, src, dst, type, 0, 0].getD a 0) ∧
      ∀ a, 14 ≤ a → m.read a = s.byteAt a)

/-- R100: each composite leaves the unit exactly as its three commands do one after the other. -/
def Obligations.GenerateEqualsItsThreeCommands : Prop :=
  ∀ (s : State) (src dst : Byte), s.bufferOk → s.lock = false → 14 ≤ s.capacity →
    (∃ t u, runOk [.startNewMessage src dst, .addAckStatus, .completeMessage] s = some t ∧
      exec (.generateAckMessage src dst) s = .next u ∧ u.unit = t.unit) ∧
    (∃ t u, runOk [.startNewMessage src dst, .addNackStatus, .completeMessage] s = some t ∧
      exec (.generateNackMessage src dst) s = .next u ∧ u.unit = t.unit)

/-- R41 V7: after a start, any interleaving of items and ack setters that fits leaves an open build that holds exactly
those items, in order, and counts them. -/
def Obligations.AnOpenBuildHoldsItsItems : Prop :=
  ∀ (s : State) (src dst : Byte) (ops : List Instr), s.bufferOk → s.lock = false →
    (∀ i ∈ ops, isBuildOp i = true ∧ WellFormed i) → 12 + (itemsToBytes (itemsOf ops)).length ≤ s.capacity →
    ∃ t, runOk (.startNewMessage src dst :: ops) s = some t ∧ t.phase = .txBuild ∧ t.lock = false ∧
      t.cursor.toNat = 12 + (itemsToBytes (itemsOf ops)).length ∧
      t.bytes 12 t.cursor.toNat = itemsToBytes (itemsOf ops) ∧
      (t.byteAt 10).toNat + 256 * (t.byteAt 11).toNat = (itemsOf ops).length

/-- R120: from any unlocked state, a start, any interleaving of items and ack setters that fits, and the completion
leave exactly the frame of those items in the buffer, and it is well formed. -/
def Obligations.BuilderProducesTheWellFormedFrame : Prop :=
  ∀ (s : State) (src dst : Byte) (ops : List Instr), s.bufferOk → s.lock = false →
    (∀ i ∈ ops, isBuildOp i = true ∧ WellFormed i) → frameLength (itemsOf ops) ≤ s.capacity →
    ∃ t, runOk (.startNewMessage src dst :: (ops ++ [.completeMessage])) s = some t ∧
      t.bytes 0 t.cursor.toNat = frameOf src dst (typeByteOf ops) (itemsOf ops) ∧
      t.cursor.toNat = frameLength (itemsOf ops) ∧
      WellFormedFrame (frameOf src dst (typeByteOf ops) (itemsOf ops))

/-- R115 (4): a completed build has the register view of the same frame received into an empty unit. -/
def Obligations.CompletedBuildLooksReceived : Prop :=
  ∀ (s t : State) (contents : Memory), s.Inv → exec .completeMessage s = .next t → t.lastOk = true →
    contents.wf = true → contents.within s.capacity = true →
    ∃ u, exec (feed (t.bytes 0 t.cursor.toNat)) (State.resetWith s.config.cap contents) = .next u ∧
      u.lastOk = true ∧ u.cursor = t.cursor ∧ u.headerPresent = t.headerPresent ∧
      u.packetComplete = t.packetComplete ∧ u.expectedLen = t.expectedLen ∧ u.lenValid = t.lenValid ∧
      u.hdrOff = t.hdrOff ∧ u.hdrSnap = t.hdrSnap ∧
      ∀ a, a < t.cursor.toNat → u.byteAt a = t.byteAt a

/-- R122: where each successful transmit-side and lifecycle command leads, and the lock after it; a failing command
changes neither. -/
def Obligations.TransmitPhasesMoveAsTabled : Prop :=
  ∀ (i : Instr) (s t : State), s.Inv → exec i s = .next t →
    (t.lastOk = false → t.phase = s.phase ∧ t.lock = s.lock) ∧
    (t.lastOk = true →
      (isStart i = true → s.lock = false ∧ t.phase = .txBuild ∧ t.lock = false) ∧
      (isGenerate i = true → s.lock = false ∧ t.phase = .txDone ∧ t.lock = true) ∧
      (isAckSetter i = true ∨ isAddData i = true →
        s.phase = .txBuild ∧ s.lock = false ∧ t.phase = .txBuild ∧ t.lock = false) ∧
      (isComplete i = true → s.phase = .txBuild ∧ s.lock = false ∧ t.phase = .txDone ∧ t.lock = true) ∧
      (isQuery i = true → t.phase = s.phase ∧ t.lock = s.lock) ∧
      (isReset i = true → t.phase = .hunt ∧ t.lock = false) ∧
      (i = .lockBuffer → t.phase = s.phase ∧ t.lock = true) ∧
      (i = .unlockBuffer → t.phase = s.phase ∧ t.lock = false))

/-! Receive. -/

/-- R130, R131, R135, R136: `ADD_RECEIVED_BYTES` appends the chunk, then looks for the header, the length and the end
of the frame, each in the state the one before it left. -/
def Obligations.AddReceivedBytesAppendsAndParses : Prop :=
  ∀ (s : State) (n : U16) (bytes : List Byte), s.Inv → WellFormed (.addReceivedBytes n bytes) →
    (s.lock = true → exec (.addReceivedBytes n bytes) s = .next (s.fail .bufferLocked)) ∧
    (s.lock = false → s.txStarted = true → exec (.addReceivedBytes n bytes) s = .next (s.fail .invalidState)) ∧
    (s.lock = false → s.txStarted = false → s.cursor.toNat + n.toNat > s.capacity →
      exec (.addReceivedBytes n bytes) s = .next (s.fail .noEnoughSpace)) ∧
    (s.lock = false → s.txStarted = false → s.cursor.toNat + n.toNat ≤ s.capacity →
      ∃ t : State, exec (.addReceivedBytes n bytes) s = .next (t.respond ⟨.ok, 0, []⟩) ∧
        t.config = s.config ∧ t.lock = s.lock ∧ t.txStarted = s.txStarted ∧
        t.pending = s.pending ∧ t.responses = s.responses ∧
        t.cursor.toNat = s.cursor.toNat + n.toNat ∧
        (∀ a, t.byteAt a =
          if s.cursor.toNat ≤ a ∧ a < s.cursor.toNat + n.toNat then bytes.getD (a - s.cursor.toNat) 0
          else s.byteAt a) ∧
        (s.headerPresent = true ∨ findMagic (t.bytes 0 t.cursor.toNat) = none →
          t.headerPresent = s.headerPresent ∧ t.hdrOff = s.hdrOff ∧ t.hdrSnap = s.hdrSnap) ∧
        (∀ p, s.headerPresent = false → findMagic (t.bytes 0 t.cursor.toNat) = some p →
          t.headerPresent = true ∧ t.hdrOff.toNat = p ∧ t.hdrSnap.toBytes = t.bytes p (p + 5)) ∧
        (t.headerPresent = true ∧ s.lenValid = false ∧ t.hdrOff.toNat + 7 ≤ t.cursor.toNat →
          t.lenValid = true ∧
            t.expectedLen = u16 (t.byteAt (t.hdrOff.toNat + 5)) (t.byteAt (t.hdrOff.toNat + 6))) ∧
        (¬ (t.headerPresent = true ∧ s.lenValid = false ∧ t.hdrOff.toNat + 7 ≤ t.cursor.toNat) →
          t.lenValid = s.lenValid ∧ t.expectedLen = s.expectedLen) ∧
        (t.packetComplete = true ↔ s.packetComplete = true ∨
          (t.headerPresent = true ∧ t.lenValid = true ∧
            t.hdrOff.toNat + t.expectedLen.toNat ≤ t.cursor.toNat)))

/-- R137: the receive-side transitions, conditions evaluated after the append. -/
def Obligations.ReceivePhasesMoveAsTabled : Prop :=
  ∀ (s t : State) (n : U16) (bytes : List Byte), s.Inv → WellFormed (.addReceivedBytes n bytes) →
    exec (.addReceivedBytes n bytes) s = .next t →
    (t.lastOk = true →
      (s.phase = .hunt → findMagic (t.bytes 0 t.cursor.toNat) = none → t.phase = .hunt) ∧
      (∀ p, s.phase = .hunt → findMagic (t.bytes 0 t.cursor.toNat) = some p →
        let u := (u16 (t.byteAt (p + 5)) (t.byteAt (p + 6))).toNat
        (t.cursor.toNat < p + 7 → t.phase = .length) ∧
        (p + 7 ≤ t.cursor.toNat → t.cursor.toNat < p + u → t.phase = .body) ∧
        (p + 7 ≤ t.cursor.toNat → p + u ≤ t.cursor.toNat → t.phase = .rxDone)) ∧
      (s.phase = .length →
        let u := (u16 (t.byteAt (s.hdrOff.toNat + 5)) (t.byteAt (s.hdrOff.toNat + 6))).toNat
        (t.cursor.toNat < s.hdrOff.toNat + 7 → t.phase = .length) ∧
        (s.hdrOff.toNat + 7 ≤ t.cursor.toNat → t.cursor.toNat < s.hdrOff.toNat + u → t.phase = .body) ∧
        (s.hdrOff.toNat + 7 ≤ t.cursor.toNat → s.hdrOff.toNat + u ≤ t.cursor.toNat → t.phase = .rxDone)) ∧
      (s.phase = .body →
        (t.cursor.toNat < s.hdrOff.toNat + s.expectedLen.toNat → t.phase = .body) ∧
        (s.hdrOff.toNat + s.expectedLen.toNat ≤ t.cursor.toNat → t.phase = .rxDone)) ∧
      (s.phase = .rxDone → t.phase = .rxDone)) ∧
    (s.phase = .txBuild ∨ s.phase = .txDone →
      (s.lock = true → t = s.fail .bufferLocked) ∧ (s.lock = false → t = s.fail .invalidState))

/-- R154: however a byte string is split into chunks, feeding the chunks in order leaves the unit exactly as feeding
the whole at once. -/
def Obligations.ChunkingDoesNotMatter : Prop :=
  ∀ (s : State) (chunks : List (List Byte)), s.Inv → s.lock = false → s.txStarted = false → chunks ≠ [] →
    s.cursor.toNat + chunks.flatten.length ≤ s.capacity →
    ∃ t u, runOk (chunks.map feed) s = some t ∧ exec (feed chunks.flatten) s = .next u ∧ u.lastOk = true ∧
      t.unit = u.unit

/-- R133: the streaming matcher finds exactly what the scan of the bytes seen so far finds. -/
def Obligations.StreamingMatcherEqualsTheScan : Prop :=
  ∀ bytes : List Byte, streamMatch 0 0 bytes = findMagic bytes

/-- R138, R141: the answers of `VALIDATE_DATA`, in order. -/
def Obligations.ValidateDataAnswersInOrder : Prop :=
  ∀ s : State, (s.packetComplete = true → s.hdrOff.toNat + s.expectedLen.toNat ≤ s.capacity) →
    let e := s.hdrOff.toNat + s.expectedLen.toNat - 2
    (s.packetComplete = false → exec .validateData s = .next (s.fail .packageNotComplete)) ∧
    (s.packetComplete = true → s.expectedLen.toNat < 14 →
      exec .validateData s = .next (s.fail .packageCorrupted)) ∧
    (s.packetComplete = true → 14 ≤ s.expectedLen.toNat →
      u16 (s.byteAt e) (s.byteAt (e + 1)) ≠ crc16Of (s.bytes s.hdrOff.toNat e) →
      exec .validateData s = .next (s.fail .packageCorrupted)) ∧
    (s.packetComplete = true → 14 ≤ s.expectedLen.toNat →
      u16 (s.byteAt e) (s.byteAt (e + 1)) = crc16Of (s.bytes s.hdrOff.toNat e) →
      s.bytes s.hdrOff.toNat (s.hdrOff.toNat + 5) ≠ magic →
      exec .validateData s = .next (s.fail .packageNotValid)) ∧
    (s.packetComplete = true → 14 ≤ s.expectedLen.toNat →
      u16 (s.byteAt e) (s.byteAt (e + 1)) = crc16Of (s.bytes s.hdrOff.toNat e) →
      s.bytes s.hdrOff.toNat (s.hdrOff.toNat + 5) = magic →
      exec .validateData s = .next (s.respond ⟨.ok, 0, []⟩))

/-- R140: `DATA_AVAILABLE` answers 1 exactly when the frame in the buffer is valid; its status is always `OK`. -/
def Obligations.DataAvailableSaysWhetherTheFrameIsValid : Prop :=
  ∀ s : State, (s.packetComplete = true → s.hdrOff.toNat + s.expectedLen.toNat ≤ s.capacity) →
    (s.frameValid → exec .dataAvailable s = .next (s.respond ⟨.ok, 1, []⟩)) ∧
    (¬ s.frameValid → exec .dataAvailable s = .next (s.respond ⟨.ok, 0, []⟩))

/-- R145: on a buffer whose frame is not valid, every command that reads a frame field fails as `VALIDATE_DATA` does. -/
def Obligations.FrameReadsFailWithTheCodeOfValidate : Prop :=
  ∀ (s : State) (i : Instr), s.Inv → ¬ s.frameValid →
    (i = .getDataCount ∨ (∃ k, i = .getDataInfo k) ∨ (∃ off type n max, i = .getData off type n max) ∨
      i = .getSourceId ∨ i = .getDestinationId ∨ i = .getAckStatus ∨ i = .getAckRequest) →
    ∃ code, code ≠ .ok ∧ exec .validateData s = .next (s.fail code) ∧ exec i s = .next (s.fail code)

/-- R142, R149 to R152: the field getters on a valid frame. -/
def Obligations.GettersReadTheValidFrame : Prop :=
  ∀ s : State, s.Inv → s.frameValid →
    (∃ v : U16, exec .getDataCount s = .next (s.respond ⟨.ok, v, []⟩) ∧
      v.toNat = (s.byteAt (s.hdrOff.toNat + 10)).toNat + 256 * (s.byteAt (s.hdrOff.toNat + 11)).toNat) ∧
    (∃ v : U16, exec .getSourceId s = .next (s.respond ⟨.ok, v, []⟩) ∧
      v.toNat = (s.byteAt (s.hdrOff.toNat + 7)).toNat) ∧
    (∃ v : U16, exec .getDestinationId s = .next (s.respond ⟨.ok, v, []⟩) ∧
      v.toNat = (s.byteAt (s.hdrOff.toNat + 8)).toNat) ∧
    (∃ v : U16, exec .getAckStatus s = .next (s.respond ⟨.ok, v, []⟩) ∧
      v.toNat = (s.byteAt (s.hdrOff.toNat + 9)).toNat % 4) ∧
    (∃ v : U16, exec .getAckRequest s = .next (s.respond ⟨.ok, v, []⟩) ∧
      v.toNat = (s.byteAt (s.hdrOff.toNat + 9)).toNat / 4 % 2)

/-- R144: the walk visits the items in order, item `k+1` where item `k` ends, and stops where one has no room. -/
def Obligations.WalkFollowsTheItemLengths : Prop :=
  ∀ (s : State) (k : Nat), s.itemsEnd ≤ s.capacity →
    walk s 0 = .ok (s.itemAt (s.hdrOff.toNat + 12)) ∧
    (walk s k = .ok none → walk s (k + 1) = .ok none) ∧
    (∀ p len, walk s k = .ok (some (p, len)) → walk s (k + 1) = .ok (s.itemAt (p + 3 + len)))

/-- R146: `GET_DATA_INFO` on a valid frame: the index bound, the walk's overrun, the descriptor. -/
def Obligations.GetDataInfoAnswersTheDescriptor : Prop :=
  ∀ (s : State) (k : U16), s.Inv → s.frameValid →
    (s.countField.toNat ≤ k.toNat → exec (.getDataInfo k) s = .next (s.fail .invalidParameter)) ∧
    (k.toNat < s.countField.toNat → walk s k.toNat = .ok none →
      exec (.getDataInfo k) s = .next (s.fail .packageNotValid)) ∧
    (∀ p len, k.toNat < s.countField.toNat → walk s k.toNat = .ok (some (p, len)) →
      ∃ off n : U16, off.toNat = p + 3 ∧ n.toNat = len ∧
        exec (.getDataInfo k) s = .next (s.respond ⟨.ok, off, le16 off ++ s.byteAt p :: le16 n⟩)) ∧
    ∃ found, walk s k.toNat = .ok found

/-- R148: `GET_DATA` on a valid frame: output space, then the item section, then the bytes of the range. -/
def Obligations.GetDataCopiesARangeOfTheSection : Prop :=
  ∀ (s : State) (off : U16) (type : Byte) (n max : U16), s.Inv → s.frameValid →
    let e := s.hdrOff.toNat + s.expectedLen.toNat - 2
    (max.toNat < n.toNat → exec (.getData off type n max) s = .next (s.fail .noEnoughSpace)) ∧
    (n.toNat ≤ max.toNat → off.toNat < s.hdrOff.toNat + 12 ∨ e < off.toNat + n.toNat →
      exec (.getData off type n max) s = .next (s.fail .invalidParameter)) ∧
    (n.toNat ≤ max.toNat → s.hdrOff.toNat + 12 ≤ off.toNat → off.toNat + n.toNat ≤ e → ∃ payload : List Byte,
      exec (.getData off type n max) s = .next (s.respond ⟨.ok, n, payload⟩) ∧
      payload.length = n.toNat ∧ ∀ i, i < n.toNat → payload.getD i 0 = s.byteAt (off.toNat + i))

/-- The round trip of the source's first property (T4; R120, R142, R146, R148): a buffer that holds the frame of some
items gives back their number and, for each index, the type, length and payload, in order. -/
def Obligations.AFrameGivesItsItemsBack : Prop :=
  ∀ (s : State) (src dst type : Byte) (items : List Item), s.Inv → s.packetComplete = true →
    s.expectedLen.toNat = frameLength items →
    s.bytes s.hdrOff.toNat (s.hdrOff.toNat + frameLength items) = frameOf src dst type items →
    (∃ count : U16, count.toNat = items.length ∧ exec .getDataCount s = .next (s.respond ⟨.ok, count, []⟩)) ∧
    ∀ (k : U16) (it : Item), items[k.toNat]? = some it →
      ∃ off n : U16, off.toNat = s.hdrOff.toNat + 12 + (itemsToBytes (items.take k.toNat)).length + 3 ∧
        n.toNat = it.payload.length ∧
        exec (.getDataInfo k) s = .next (s.respond ⟨.ok, off, le16 off ++ it.type :: le16 n⟩) ∧
        ∀ max : U16, n.toNat ≤ max.toNat →
          exec (.getData off it.type n max) s = .next (s.respond ⟨.ok, n, it.payload⟩)

/-- R140: of a valid frame fed into an empty unit, every proper part is not available, and the whole is. -/
def Obligations.AFrameIsAvailableExactlyWhenWhole : Prop :=
  ∀ (s : State) (frame : List Byte) (k : Nat), s.Inv → s.cursor = 0 → s.lock = false → ValidFrame frame →
    frame.length ≤ s.capacity → k ≤ frame.length →
    ∃ t, exec (feed (frame.take k)) s = .next t ∧ t.lastOk = true ∧
      exec .dataAvailable t = .next (t.respond ⟨.ok, if k = frame.length then 1 else 0, []⟩)

/-- R155: a valid frame damaged in any one byte from frame byte 7 on and fed into an empty unit is corrupted. -/
def Obligations.OneDamagedByteIsFoundCorrupt : Prop :=
  ∀ (s : State) (frame : List Byte) (i : Nat) (b : Byte), s.Inv → s.cursor = 0 → s.lock = false →
    ValidFrame frame → frame.length ≤ s.capacity → 7 ≤ i → i < frame.length → frame.getD i 0 ≠ b →
    ∃ t, exec (feed (frame.set i b)) s = .next t ∧ t.lastOk = true ∧
      exec .validateData t = .next (t.fail .packageCorrupted)

/-! The stateless functions. -/

/-- R160: the scan gives the least offset at which the five bytes stand, and none only where they stand nowhere. -/
def Obligations.FindMagicIsTheLeastOccurrence : Prop :=
  ∀ bytes : List Byte,
    (∀ p, findMagic bytes = some p ↔
      p + 5 ≤ bytes.length ∧ (bytes.drop p).take 5 = [0x55, 0x41, 0x54, 0x43, 0x3A] ∧
        ∀ q, q < p → (bytes.drop q).take 5 ≠ [0x55, 0x41, 0x54, 0x43, 0x3A]) ∧
    (findMagic bytes = none ↔ ∀ p, (bytes.drop p).take 5 ≠ [0x55, 0x41, 0x54, 0x43, 0x3A])

/-- R161: `FIND_HEADER_POSITION` answers the offset found, or `0xFFFF`, which no offset found can be. -/
def Obligations.FindHeaderPositionAnswersTheOffset : Prop :=
  ∀ (s : State) (n : U16) (bytes : List Byte), WellFormed (.findHeaderPosition n bytes) →
    (findMagic bytes = none → exec (.findHeaderPosition n bytes) s = .next (s.respond ⟨.ok, 0xFFFF, []⟩)) ∧
    (∀ p, findMagic bytes = some p → p ≤ 65530 ∧ ∃ v : U16, v.toNat = p ∧
      exec (.findHeaderPosition n bytes) s = .next (s.respond ⟨.ok, v, []⟩))

/-- R162: `GET_MESSAGE_BUFFER_LEN` reads the two bytes at `hpos + 5`, if both lie in the string. -/
def Obligations.GetMessageBufferLenPeeksTheLength : Prop :=
  ∀ (s : State) (hpos n : U16) (bytes : List Byte), WellFormed (.getMessageBufferLen hpos n bytes) →
    (hpos.toNat + 7 > n.toNat →
      exec (.getMessageBufferLen hpos n bytes) s = .next (s.fail .invalidParameter)) ∧
    (hpos.toNat + 7 ≤ n.toNat → ∃ (lo hi : Byte) (v : U16),
      bytes[hpos.toNat + 5]? = some lo ∧ bytes[hpos.toNat + 6]? = some hi ∧ v.toNat = lo.toNat + 256 * hi.toNat ∧
      exec (.getMessageBufferLen hpos n bytes) s = .next (s.respond ⟨.ok, v, []⟩))

/-- R190: `CRC16` answers the checksum of its string and touches nothing. -/
def Obligations.Crc16CommandAnswersTheChecksum : Prop :=
  ∀ (s : State) (n : U16) (bytes : List Byte),
    exec (.crc16 n bytes) s = .next (s.respond ⟨.ok, crc16Of bytes, []⟩)

/-- R32: the three stateless commands answer the same in every state of the unit. -/
def Obligations.StatelessCommandsIgnoreTheState : Prop :=
  ∀ (i : Instr) (s s' : State), isStateless i = true →
    ∃ r, exec i s = .next (s.respond r) ∧ exec i s' = .next (s'.respond r)

/-- R186: the byte-at-a-time table form of the checksum step agrees with the bit form on every input. -/
def Obligations.CrcTableFormAgrees : Prop :=
  (∀ (r : U16) (b : Byte), crcByteByTable r b = crcByte r b) ∧
  [0, 1, 2, 3, 4, 8, 16, 32, 64, 128, 255].map crcTable =
    [0x0000, 0x1189, 0x2312, 0x329B, 0x4624, 0x8C48, 0x1081, 0x2102, 0x4204, 0x8408, 0x0F78]

/-- R188 (3): a change confined to one byte, or to two neighbouring bytes, changes the checksum of a message of
unchanged length. -/
def Obligations.CrcDetectsChangesWithinTwoBytes : Prop :=
  ∀ before changed changed' after : List Byte, changed.length = changed'.length → changed.length ≤ 2 →
    changed ≠ changed' → crc16Of (before ++ changed ++ after) ≠ crc16Of (before ++ changed' ++ after)

/-- R189: a message followed by two bytes has the residue `0x0F47` exactly when the two bytes are its checksum. -/
def Obligations.CrcResidueRecognisesTheTrailer : Prop :=
  ∀ (bytes : List Byte) (trailer : U16), crc16Of (bytes ++ le16 trailer) = 0x0F47 ↔ trailer = crc16Of bytes

/-! Reset and the buffer. -/

/-- R231: what each command answers in the reset state of a unit that can hold a frame. -/
def Obligations.ResetStateAnswersAsTabled : Prop :=
  ∀ (cap : U16) (contents : Memory), contents.wf = true → contents.within cap.toNat = true → 14 ≤ cap.toNat →
    let s := State.resetWith cap contents
    exec .resetBuffer s = .next (s.respond ⟨.ok, 0, []⟩) ∧
    exec .unlockBuffer s = .next (s.respond ⟨.ok, 0, []⟩) ∧
    exec .lockBuffer s = .next (State.respond { s with lock := true } ⟨.ok, 0, []⟩) ∧
    exec .getLockStatus s = .next (s.respond ⟨.ok, 0, []⟩) ∧
    (∀ reg : Byte, reg.toNat < 7 → exec (.readReg reg) s = .next (s.respond ⟨.ok, 0, []⟩)) ∧
    exec (.readReg 7) s = .next (s.respond ⟨.ok, cap, []⟩) ∧
    (∀ reg : Byte, 8 ≤ reg.toNat → exec (.readReg reg) s = .next (s.fail .invalidParameter)) ∧
    (∀ src dst, ∃ t, exec (.startNewMessage src dst) s = .next t ∧ t.lastOk = true ∧ t.phase = .txBuild) ∧
    (∀ i, isAckSetter i = true ∨ isAddData i = true ∨ isComplete i = true →
      exec i s = .next (s.fail .invalidState)) ∧
    (∀ i, isGenerate i = true → ∃ t : State, exec i s = .next (t.respond ⟨.ok, 14, []⟩) ∧ t.phase = .txDone) ∧
    (∀ max, exec (.getSendPacket max) s = .next (s.fail .packageNotComplete)) ∧
    (∀ n bytes, WellFormed (.addReceivedBytes n bytes) → n.toNat ≤ cap.toNat →
      ∃ t, exec (.addReceivedBytes n bytes) s = .next t ∧ t.lastOk = true) ∧
    (∀ n bytes, cap.toNat < n.toNat → exec (.addReceivedBytes n bytes) s = .next (s.fail .noEnoughSpace)) ∧
    exec .dataAvailable s = .next (s.respond ⟨.ok, 0, []⟩) ∧
    (∀ i, (i = .validateData ∨ i = .getDataCount ∨ (∃ k, i = .getDataInfo k) ∨
        (∃ off type n max, i = .getData off type n max) ∨ i = .getSourceId ∨ i = .getDestinationId ∨
        i = .getAckStatus ∨ i = .getAckRequest) →
      exec i s = .next (s.fail .packageNotComplete)) ∧
    (∀ i, isStateless i = true → ∀ s' : State, ∃ r, exec i s = .next (s.respond r) ∧ exec i s' = .next (s'.respond r))

/-- R51, R52: a 2-byte field written at any offset of the buffer, odd or even, stands low byte first, reads back as it
was, and no other byte changes. -/
def Obligations.TwoByteFieldsAreLittleEndianAtAnyOffset : Prop :=
  ∀ (s : State) (a : Nat) (v : U16), s.bufferOk → a + 1 < s.capacity →
    ∃ m : Memory, s.memWrite2 a v = .ok { s with buf := m } ∧
      State.memRead2 { s with buf := m } a = .ok v ∧
      (m.read a).toNat = v.toNat % 256 ∧ (m.read (a + 1)).toNat = v.toNat / 256 ∧
      ∀ x, x ≠ a → x ≠ a + 1 → m.read x = s.byteAt x
end

