-- ==== Sys2Proof/Laws/Codec.lean ====
section
/-! SUPPORT. Byte order: two bytes and the 16-bit value they stand for are inverse to each other; and what decoding an
operand format can give. -/

namespace Sys2Proof

@[simp] theorem le16_length (v : U16) : (le16 v).length = 2 := rfl

theorem u16_toNat (lo hi : Byte) : (u16 lo hi).toNat = lo.toNat + 256 * hi.toNat := by
  have h1 := lo.isLt
  have h2 := hi.isLt
  simp only [u16, BitVec.toNat_ofNat]
  omega

/-- The value of its own two bytes. -/
theorem u16_le16 (v : U16) : u16 ((le16 v).getD 0 0) ((le16 v).getD 1 0) = v := by
  apply BitVec.eq_of_toNat_eq
  have h := v.isLt
  simp only [le16, u16_toNat, List.getD_cons_zero, List.getD_cons_succ, BitVec.toNat_ofNat]
  omega

/-- The two bytes of their own value. -/
theorem le16_u16 (lo hi : Byte) : le16 (u16 lo hi) = [lo, hi] := by
  have h1 := lo.isLt
  have h2 := hi.isLt
  simp only [le16, u16_toNat, List.cons.injEq, and_true]
  constructor <;> apply BitVec.eq_of_toNat_eq <;> simp only [BitVec.toNat_ofNat] <;> omega

/-- The two bytes of a value, by name. -/
theorem le16_eq (v : U16) : ∃ lo hi, le16 v = [lo, hi] ∧ u16 lo hi = v := ⟨_, _, rfl, u16_le16 v⟩

theorem le16_inj {v w : U16} (h : le16 v = le16 w) : v = w := by
  rw [← u16_le16 v, h, u16_le16]

end Sys2Proof
end

