-- ==== Sys2Proof/Laws/Memory.lean ====
section
/-! SUPPORT. The laws of the buffer's memory: reading after writing, the canonical form kept by every operation, and
equal contents being equal data. -/

namespace Sys2Proof.Machine

@[simp] theorem Memory.read_nil (a : Nat) : Memory.read a [] = Config.unlistedByte := rfl

theorem Memory.read_below {lo a : Nat} {m : Memory} (h : Memory.wfFrom lo m = true) (ha : a < lo) :
    m.read a = Config.unlistedByte := by
  induction m generalizing lo with
  | nil => rfl
  | cons c rest ih =>
    obtain ⟨k, b⟩ := c
    simp only [Memory.wfFrom, Bool.and_eq_true, decide_eq_true_eq] at h
    have hne : k ≠ a := by omega
    simp only [Memory.read, hne, if_false]
    exact ih h.2 (by omega)

theorem Memory.read_cons (a v x) (rest : Memory) {lo : Nat} (h : Memory.wfFrom lo rest = true) (ha : a < lo) :
    (Memory.cons a v rest).read x = if x = a then v else rest.read x := by
  unfold Memory.cons
  split
  · split
    · subst x; rw [Memory.read_below h ha]; simp [*]
    · rfl
  · by_cases hx : x = a
    · simp [Memory.read, hx]
    · simp [Memory.read, hx, Ne.symm hx]

/-- Reading after writing: the byte written at its offset, every other byte as before. -/
theorem Memory.read_write {lo : Nat} {m : Memory} (h : Memory.wfFrom lo m = true) (a v x) :
    (m.write a v).read x = if x = a then v else m.read x := by
  induction m generalizing lo with
  | nil => exact Memory.read_cons (lo := a + 1) a v x [] rfl (by omega)
  | cons c rest ih =>
    obtain ⟨k, b⟩ := c
    have h' := h
    simp only [Memory.wfFrom, Bool.and_eq_true, decide_eq_true_eq] at h
    obtain ⟨⟨h1, h2⟩, h3⟩ := h
    unfold Memory.write
    split
    · refine Memory.read_cons (lo := k) a v x _ ?_ ‹_›
      simp [Memory.wfFrom, h2, h3]
    · split
      · subst a
        rw [Memory.read_cons k v x rest h3 (by omega)]
        by_cases hx : x = k <;> simp [Memory.read, hx, eq_comm]
      · simp only [Memory.read, ih h3]
        by_cases hx : x = a
        · subst x; simp [show ¬k = a by omega]
        · simp [hx]

theorem Memory.wfFrom_mono {lo hi : Nat} {m : Memory} (hle : lo ≤ hi) (h : Memory.wfFrom hi m = true) :
    Memory.wfFrom lo m = true := by
  cases m with
  | nil => rfl
  | cons c rest =>
    obtain ⟨k, b⟩ := c
    simp only [Memory.wfFrom, Bool.and_eq_true, decide_eq_true_eq] at h ⊢
    exact ⟨⟨by omega, h.1.2⟩, h.2⟩

theorem Memory.wfFrom_cons {lo a : Nat} {v : Byte} {rest : Memory} (hlo : lo ≤ a)
    (h : Memory.wfFrom (a + 1) rest = true) : Memory.wfFrom lo (Memory.cons a v rest) = true := by
  unfold Memory.cons
  split
  · exact Memory.wfFrom_mono (by omega) h
  · simp [Memory.wfFrom, *]

/-- A write keeps the canonical form, from any lower bound that its offset respects. -/
theorem Memory.wfFrom_write {lo : Nat} {m : Memory} (h : Memory.wfFrom lo m = true) {a : Nat} (v : Byte)
    (ha : lo ≤ a) : Memory.wfFrom lo (m.write a v) = true := by
  induction m generalizing lo with
  | nil => exact Memory.wfFrom_cons ha rfl
  | cons c rest ih =>
    obtain ⟨k, b⟩ := c
    simp only [Memory.wfFrom, Bool.and_eq_true, decide_eq_true_eq] at h
    obtain ⟨⟨h1, h2⟩, h3⟩ := h
    unfold Memory.write
    split
    · refine Memory.wfFrom_cons ha ?_
      simp [Memory.wfFrom, h2, h3]; omega
    · split
      · subst a; exact Memory.wfFrom_cons ha h3
      · simp only [Memory.wfFrom, Bool.and_eq_true, decide_eq_true_eq]
        exact ⟨⟨h1, h2⟩, ih h3 (by omega)⟩

/-- A write keeps the canonical form. -/
theorem Memory.wf_write {m : Memory} (h : m.wf = true) (a : Nat) (v : Byte) : (m.write a v).wf = true :=
  Memory.wfFrom_write h v (Nat.zero_le a)

theorem Memory.wf_writeAll {m : Memory} (h : m.wf = true) (a : Nat) (bs : List Byte) :
    (m.writeAll a bs).wf = true := by
  induction bs generalizing a m with
  | nil => exact h
  | cons b rest ih => exact ih (Memory.wf_write h a b) (a + 1)

/-- Reading after writing a block: the block's byte inside it, every other byte as before. -/
theorem Memory.read_writeAll {m : Memory} (h : m.wf = true) (a : Nat) (bs : List Byte) (x : Nat) :
    (m.writeAll a bs).read x = if a ≤ x ∧ x < a + bs.length then bs.getD (x - a) 0 else m.read x := by
  induction bs generalizing a m with
  | nil => simp [Memory.writeAll]
  | cons b rest ih =>
    simp only [Memory.writeAll, ih (Memory.wf_write h a b), Memory.read_write h, List.length_cons]
    by_cases hx : x = a
    · subst x; simp
    · by_cases hin : a + 1 ≤ x ∧ x < a + 1 + rest.length
      · have : x - a = (x - (a + 1)) + 1 := by omega
        simp [hin, this, show a ≤ x ∧ x < a + (rest.length + 1) by omega]
      · rw [if_neg hin, if_neg hx, if_neg (by omega)]

theorem Memory.within_write {cap : Nat} {m : Memory} (h : m.within cap = true) {a : Nat} (v : Byte) (ha : a < cap) :
    (m.write a v).within cap = true := by
  induction m with
  | nil => unfold Memory.write Memory.cons; split <;> simp [Memory.within, ha]
  | cons c rest ih =>
    obtain ⟨k, b⟩ := c
    simp only [Memory.within, List.all_cons, Bool.and_eq_true, decide_eq_true_eq] at h ih ⊢
    unfold Memory.write Memory.cons
    split
    · split <;> simp [ha, h]
    · split
      · split <;> simp [ha, h]
      · simp [h.1, ih h.2]

theorem Memory.within_writeAll {cap : Nat} {m : Memory} (h : m.within cap = true) (a : Nat) (bs : List Byte)
    (hb : a + bs.length ≤ cap) : (m.writeAll a bs).within cap = true := by
  induction bs generalizing a m with
  | nil => exact h
  | cons b rest ih =>
    simp only [List.length_cons] at hb
    exact ih (Memory.within_write h b (by omega)) (a + 1) (by omega)

@[simp] theorem Memory.length_readRange (m : Memory) (a n : Nat) : (m.readRange a n).length = n := by
  induction n generalizing a with
  | zero => rfl
  | succ n ih => simp [Memory.readRange, ih]

theorem Memory.getElem?_readRange (m : Memory) (a n i : Nat) :
    (m.readRange a n)[i]? = if i < n then some (m.read (a + i)) else none := by
  induction n generalizing a i with
  | zero => simp [Memory.readRange]
  | succ n ih =>
    cases i with
    | zero => simp [Memory.readRange]
    | succ i => simp [Memory.readRange, ih, Nat.add_assoc, Nat.add_comm 1]

theorem Memory.getD_readRange (m : Memory) (a n i : Nat) (d : Byte) (h : i < n) :
    (m.readRange a n).getD i d = m.read (a + i) := by
  rw [List.getD_eq_getElem?_getD, Memory.getElem?_readRange, if_pos h, Option.getD_some]

theorem Memory.readRange_congr {m m' : Memory} {a n : Nat} (h : ∀ x, a ≤ x → x < a + n → m.read x = m'.read x) :
    m.readRange a n = m'.readRange a n := by
  induction n generalizing a with
  | zero => rfl
  | succ n ih =>
    simp only [Memory.readRange]
    rw [h a (by omega) (by omega), ih fun x h1 h2 => h x (by omega) (by omega)]

theorem Memory.readRange_add (m : Memory) (a n k : Nat) :
    m.readRange a (n + k) = m.readRange a n ++ m.readRange (a + n) k := by
  induction n generalizing a with
  | zero => simp [Memory.readRange]
  | succ n ih => simp [Nat.add_right_comm n 1 k, Memory.readRange, ih, Nat.add_assoc, Nat.add_comm 1]

/-- A byte string read back is the bytes that stand there. -/
theorem Memory.readRange_eq {m : Memory} {a : Nat} {bs : List Byte}
    (h : ∀ i, i < bs.length → m.read (a + i) = bs.getD i 0) : m.readRange a bs.length = bs := by
  apply List.ext_getElem?
  intro i
  rw [Memory.getElem?_readRange]
  split
  · rw [h i ‹_›]; simp [List.getD, *]
  · simp only [not_lt] at *; simp [*]

/-- Equal contents are equal data. -/
theorem Memory.ext_read {lo : Nat} {m m' : Memory} (h : Memory.wfFrom lo m = true) (h' : Memory.wfFrom lo m' = true)
    (heq : ∀ a, m.read a = m'.read a) : m = m' := by
  induction m generalizing lo m' with
  | nil =>
    cases m' with
    | nil => rfl
    | cons c rest =>
      obtain ⟨k, b⟩ := c
      simp only [Memory.wfFrom, Bool.and_eq_true, bne_iff_ne] at h'
      have := heq k
      simp [Memory.read] at this
      exact absurd this.symm h'.1.2
  | cons c rest ih =>
    obtain ⟨k, b⟩ := c
    cases m' with
    | nil =>
      simp only [Memory.wfFrom, Bool.and_eq_true, bne_iff_ne] at h
      have := heq k
      simp [Memory.read] at this
      exact absurd this h.1.2
    | cons c' rest' =>
      obtain ⟨k', b'⟩ := c'
      simp only [Memory.wfFrom, Bool.and_eq_true, decide_eq_true_eq, bne_iff_ne] at h h'
      have hk : k = k' := by
        rcases Nat.lt_trichotomy k k' with hlt | he | hlt
        · have := heq k
          rw [Memory.read, if_pos rfl, Memory.read, if_neg (by omega), Memory.read_below h'.2 (by omega)] at this
          exact absurd this h.1.2
        · exact he
        · have := heq k'
          rw [Memory.read, if_neg (by omega), Memory.read_below h.2 (by omega), Memory.read, if_pos rfl] at this
          exact absurd this.symm h'.1.2
      subst k'
      have hb : b = b' := by simpa [Memory.read] using heq k
      subst b'
      rw [ih h.2 h'.2 fun a => ?_]
      by_cases ha : k = a
      · subst a; rw [Memory.read_below h.2 (by omega), Memory.read_below h'.2 (by omega)]
      · simpa [Memory.read, ha] using heq a

end Sys2Proof.Machine
end

