-- ==== Sys2Proof/Laws/State.lean ====
section
/-! SUPPORT. One lemma per field of the state for each update that the shared operations make. -/

namespace Sys2Proof.Machine

section Respond
variable (s : State) (r : Response) (code : ResultCode)

@[simp] theorem State.respond_config : (s.respond r).config = s.config := rfl
@[simp] theorem State.respond_buf : (s.respond r).buf = s.buf := rfl
@[simp] theorem State.respond_cursor : (s.respond r).cursor = s.cursor := rfl
@[simp] theorem State.respond_lock : (s.respond r).lock = s.lock := rfl
@[simp] theorem State.respond_headerPresent : (s.respond r).headerPresent = s.headerPresent := rfl
@[simp] theorem State.respond_packetComplete : (s.respond r).packetComplete = s.packetComplete := rfl
@[simp] theorem State.respond_expectedLen : (s.respond r).expectedLen = s.expectedLen := rfl
@[simp] theorem State.respond_lenValid : (s.respond r).lenValid = s.lenValid := rfl
@[simp] theorem State.respond_hdrOff : (s.respond r).hdrOff = s.hdrOff := rfl
@[simp] theorem State.respond_hdrSnap : (s.respond r).hdrSnap = s.hdrSnap := rfl
@[simp] theorem State.respond_txStarted : (s.respond r).txStarted = s.txStarted := rfl
@[simp] theorem State.respond_pending : (s.respond r).pending = s.pending := rfl
@[simp] theorem State.respond_responses : (s.respond r).responses = s.responses ++ [r] := rfl
@[simp] theorem State.respond_capacity : (s.respond r).capacity = s.capacity := rfl
@[simp] theorem State.respond_byteAt (a : Nat) : (s.respond r).byteAt a = s.byteAt a := rfl
@[simp] theorem State.respond_bytes (a b : Nat) : (s.respond r).bytes a b = s.bytes a b := rfl
theorem State.fail_eq_respond : s.fail code = s.respond ⟨code, 0, []⟩ := rfl

end Respond

section WithBuf
variable (s : State) (m m' : Memory)

@[simp] theorem State.withBuf_buf : (s.withBuf m).buf = m := rfl
@[simp] theorem State.withBuf_config : (s.withBuf m).config = s.config := rfl
@[simp] theorem State.withBuf_cursor : (s.withBuf m).cursor = s.cursor := rfl
@[simp] theorem State.withBuf_lock : (s.withBuf m).lock = s.lock := rfl
@[simp] theorem State.withBuf_headerPresent : (s.withBuf m).headerPresent = s.headerPresent := rfl
@[simp] theorem State.withBuf_packetComplete : (s.withBuf m).packetComplete = s.packetComplete := rfl
@[simp] theorem State.withBuf_expectedLen : (s.withBuf m).expectedLen = s.expectedLen := rfl
@[simp] theorem State.withBuf_lenValid : (s.withBuf m).lenValid = s.lenValid := rfl
@[simp] theorem State.withBuf_hdrOff : (s.withBuf m).hdrOff = s.hdrOff := rfl
@[simp] theorem State.withBuf_hdrSnap : (s.withBuf m).hdrSnap = s.hdrSnap := rfl
@[simp] theorem State.withBuf_txStarted : (s.withBuf m).txStarted = s.txStarted := rfl
@[simp] theorem State.withBuf_pending : (s.withBuf m).pending = s.pending := rfl
@[simp] theorem State.withBuf_responses : (s.withBuf m).responses = s.responses := rfl
@[simp] theorem State.withBuf_capacity : (s.withBuf m).capacity = s.capacity := rfl
@[simp] theorem State.withBuf_byteAt (a : Nat) : (s.withBuf m).byteAt a = m.read a := rfl
@[simp] theorem State.withBuf_bytes (a b : Nat) : (s.withBuf m).bytes a b = m.readRange a (b - a) := rfl
@[simp] theorem State.withBuf_withBuf : (s.withBuf m).withBuf m' = s.withBuf m' := rfl
@[simp] theorem State.withBuf_self : s.withBuf s.buf = s := rfl

end WithBuf

section Reset
variable (cap : U16) (contents : Memory)

@[simp] theorem State.resetWith_config : (State.resetWith cap contents).config = ⟨cap⟩ := rfl
@[simp] theorem State.resetWith_buf : (State.resetWith cap contents).buf = contents := rfl
@[simp] theorem State.resetWith_cursor : (State.resetWith cap contents).cursor = 0 := rfl
@[simp] theorem State.resetWith_lock : (State.resetWith cap contents).lock = false := rfl
@[simp] theorem State.resetWith_headerPresent : (State.resetWith cap contents).headerPresent = false := rfl
@[simp] theorem State.resetWith_packetComplete : (State.resetWith cap contents).packetComplete = false := rfl
@[simp] theorem State.resetWith_expectedLen : (State.resetWith cap contents).expectedLen = 0 := rfl
@[simp] theorem State.resetWith_lenValid : (State.resetWith cap contents).lenValid = false := rfl
@[simp] theorem State.resetWith_hdrOff : (State.resetWith cap contents).hdrOff = 0 := rfl
@[simp] theorem State.resetWith_hdrSnap : (State.resetWith cap contents).hdrSnap = ⟨0, 0, 0, 0, 0⟩ := rfl
@[simp] theorem State.resetWith_txStarted : (State.resetWith cap contents).txStarted = false := rfl
@[simp] theorem State.resetWith_pending : (State.resetWith cap contents).pending = [] := rfl
@[simp] theorem State.resetWith_responses : (State.resetWith cap contents).responses = [] := rfl
@[simp] theorem State.resetWith_capacity : (State.resetWith cap contents).capacity = cap.toNat := rfl

end Reset

/-- A response is recognised by the list it ends. -/
theorem State.respond_inj {s t : State} {r q : Response} (h : s.respond r = t.respond q)
    (hr : s.responses = t.responses) : s = t ∧ r = q := by
  cases s; cases t
  simp_all [State.respond]

end Sys2Proof.Machine
end

