-- ==== Sys2Proof/Laws/Ops.lean ====
section
/-! SUPPORT. What each shared operation can do, said once: the checks, the buffer accesses and the answer. -/

namespace Sys2Proof.Machine

@[simp] theorem Cmd.ok_bind {α β} (a : α) (f : α → Cmd β) : (Except.ok a >>= f : Cmd β) = f a := rfl
@[simp] theorem Cmd.error_bind {α β} (e : Stop) (f : α → Cmd β) : (Except.error e >>= f : Cmd β) = .error e := rfl
@[simp] theorem Cmd.pure_eq {α} (a : α) : (pure a : Cmd α) = .ok a := rfl

/-- A sequence that gives a value: its first part gave one, and the rest from there. -/
theorem Cmd.bind_eq_ok {α β} {x : Cmd α} {f : α → Cmd β} {b : β} :
    (x >>= f) = .ok b ↔ ∃ a, x = .ok a ∧ f a = .ok b := by
  cases x <;> simp

/-- A sequence that does not give a value: its first part stopped, or the rest did. -/
theorem Cmd.bind_eq_error {α β} {x : Cmd α} {f : α → Cmd β} {e : Stop} :
    (x >>= f) = .error e ↔ x = .error e ∨ ∃ a, x = .ok a ∧ f a = .error e := by
  cases x <;> simp

theorem raiseIf_pos {p : Prop} [Decidable p] {code : ResultCode} (h : p) :
    raiseIf p code = .error (.raise code) := if_pos h

theorem raiseIf_neg {p : Prop} [Decidable p] {code : ResultCode} (h : ¬p) : raiseIf p code = .ok () := if_neg h

theorem raiseIf_eq_ok {p : Prop} [Decidable p] {code : ResultCode} {u : Unit} :
    raiseIf p code = .ok u ↔ ¬p := by
  unfold raiseIf; split <;> simp [*]

theorem raiseIf_eq_error {p : Prop} [Decidable p] {code : ResultCode} {e : Stop} :
    raiseIf p code = .error e ↔ p ∧ e = .raise code := by
  unfold raiseIf; split <;> simp [*, eq_comm]

/-- What the lock check can do (R203). -/
theorem lockCheck_eq (s : State) :
    lockCheck s = if s.lock = true then .error (.raise .bufferLocked) else .ok () := rfl

/-- What `BuilderCheck()` can do (R119). -/
theorem builderCheck_eq (s : State) :
    builderCheck s =
      if s.lock = true then .error (.raise .bufferLocked)
      else if s.packetComplete = true then .error (.raise .packageAlreadyComplete)
      else if s.txStarted = false then .error (.raise .invalidState) else .ok () := by
  simp only [builderCheck, lockCheck, raiseIf]
  split_ifs <;> rfl

/-- `BuilderCheck()` passes exactly when unlocked with a build open (R119). -/
theorem builderCheck_eq_ok {s : State} {u : Unit} :
    builderCheck s = .ok u ↔ s.lock = false ∧ s.packetComplete = false ∧ s.txStarted = true := by
  rw [builderCheck_eq]
  split_ifs <;> simp_all

section Access
variable {s t : State} {a b : Nat} {bs : List Byte}

theorem State.memRead1_ok (h : a < s.capacity) : s.memRead1 a = .ok (s.byteAt a) := if_pos h

theorem State.memRead2_ok (h : a + 1 < s.capacity) : s.memRead2 a = .ok (u16 (s.byteAt a) (s.byteAt (a + 1))) :=
  if_pos h

theorem State.memBytes_ok (h : b ≤ a ∨ b ≤ s.capacity) : s.memBytes a b = .ok (s.bytes a b) := if_pos h

theorem State.memWriteBytes_ok (h : bs.length = 0 ∨ a + bs.length ≤ s.capacity) :
    s.memWriteBytes a bs = .ok (s.withBuf (s.buf.writeAll a bs)) := if_pos h

theorem State.memWrite1_ok {v : Byte} (h : a < s.capacity) :
    s.memWrite1 a v = .ok (s.withBuf (s.buf.writeAll a [v])) := if_pos (.inr h)

theorem State.memWrite2_ok {v : U16} (h : a + 1 < s.capacity) :
    s.memWrite2 a v = .ok (s.withBuf (s.buf.writeAll a (le16 v))) := if_pos (.inr h)

theorem State.memRead1_eq_ok {v : Byte} : s.memRead1 a = .ok v ↔ a < s.capacity ∧ v = s.byteAt a := by
  unfold State.memRead1; split <;> simp [*, eq_comm]

theorem State.memRead2_eq_ok {v : U16} :
    s.memRead2 a = .ok v ↔ a + 1 < s.capacity ∧ v = u16 (s.byteAt a) (s.byteAt (a + 1)) := by
  unfold State.memRead2; split <;> simp [*, eq_comm]

theorem State.memBytes_eq_ok : s.memBytes a b = .ok bs ↔ (b ≤ a ∨ b ≤ s.capacity) ∧ bs = s.bytes a b := by
  unfold State.memBytes; split <;> simp [*, eq_comm]

/-- What writing a block can do: inside the buffer, or nothing to write. -/
theorem State.memWriteBytes_eq_ok :
    s.memWriteBytes a bs = .ok t ↔
      (bs.length = 0 ∨ a + bs.length ≤ s.capacity) ∧ t = s.withBuf (s.buf.writeAll a bs) := by
  unfold State.memWriteBytes; split <;> simp_all [eq_comm]

/-- A byte after a block was written: the block's byte inside it, every other byte as before. -/
theorem State.byteAt_withBuf_writeAll (h : s.buf.wf = true) (x : Nat) :
    (s.withBuf (s.buf.writeAll a bs)).byteAt x =
      if a ≤ x ∧ x < a + bs.length then bs.getD (x - a) 0 else s.byteAt x :=
  Memory.read_writeAll h a bs x

/-- No buffer access raises a code. -/
theorem State.memRead1_no_raise {code : ResultCode} : s.memRead1 a ≠ .error (.raise code) := by
  unfold State.memRead1; split <;> simp

theorem State.memRead2_no_raise {code : ResultCode} : s.memRead2 a ≠ .error (.raise code) := by
  unfold State.memRead2; split <;> simp

theorem State.memBytes_no_raise {code : ResultCode} : s.memBytes a b ≠ .error (.raise code) := by
  unfold State.memBytes; split <;> simp

theorem State.memWriteBytes_no_raise {code : ResultCode} : s.memWriteBytes a bs ≠ .error (.raise code) := by
  unfold State.memWriteBytes; split <;> simp

end Access

@[simp] theorem State.length_bytes (s : State) (a b : Nat) : (s.bytes a b).length = b - a :=
  Memory.length_readRange ..

theorem State.getD_bytes (s : State) {a b i : Nat} (h : i < b - a) : (s.bytes a b).getD i 0 = s.byteAt (a + i) :=
  Memory.getD_readRange _ _ _ _ _ h

/-- What the end of a command can do: its answer is the value it returned or the code it raised (R17). -/
theorem State.answer_eq_next {s t : State} {c : Cmd Done} :
    s.answer c = .next t ↔
      (∃ d, c = .ok d ∧ t = d.state.respond ⟨.ok, d.value, d.data⟩) ∨
        ∃ code, c = .error (.raise code) ∧ t = s.fail code := by
  match c with
  | .ok d => simp [State.answer, eq_comm]
  | .error (.raise code) => simp [State.answer, eq_comm]
  | .error (.fault reason) => simp [State.answer]

@[simp] theorem State.answer_ok (s : State) (d : Done) :
    s.answer (.ok d) = .next (d.state.respond ⟨.ok, d.value, d.data⟩) := rfl

@[simp] theorem State.answer_raise (s : State) (code : ResultCode) :
    s.answer (.error (.raise code)) = .next (s.fail code) := rfl

end Sys2Proof.Machine
end

