-- ==== Sys2Proof/Laws/Operands.lean ====
section
/-! SUPPORT. What `Validate()`, `RequireValid()` and one entry of the walk can do, said once, for a frame that lies in
the buffer; and the parts of the invariants that give that. -/

namespace Sys2Proof.Machine

/-- Everything `Validate()` can answer on a frame inside the buffer (R138). -/
theorem validate_eq (s : State) (h : s.packetComplete = true → s.hdrOff.toNat + s.expectedLen.toNat ≤ s.capacity) :
    validate s = .ok
      (if s.packetComplete = false then .packageNotComplete
      else if s.expectedLen.toNat < 14 then .packageCorrupted
      else if u16 (s.byteAt s.itemsEnd) (s.byteAt (s.itemsEnd + 1)) ≠ crc16Of (s.bytes s.hdrOff.toNat s.itemsEnd) then
        .packageCorrupted
      else if s.bytes s.hdrOff.toNat (s.hdrOff.toNat + 5) ≠ magic then .packageNotValid
      else .ok) := by
  unfold validate
  simp only [minFrameLen, headerLen]
  by_cases h1 : s.packetComplete = false
  · rw [if_pos h1, if_pos h1]
  have hc := h (by simpa using h1)
  rw [if_neg h1, if_neg h1]
  by_cases h2 : s.expectedLen.toNat < 14
  · rw [if_pos h2, if_pos h2]
  have he : s.itemsEnd = s.hdrOff.toNat + s.expectedLen.toNat - 2 := rfl
  rw [if_neg h2, if_neg h2, State.memRead2_ok (by omega), Cmd.ok_bind, State.memBytes_ok (.inr (by omega)), Cmd.ok_bind,
    State.memBytes_ok (.inr (by omega)), Cmd.ok_bind]
  split_ifs <;> rfl

/-- `Validate()` answers `OK` exactly on a valid frame. -/
theorem validate_eq_ok_iff (s : State)
    (h : s.packetComplete = true → s.hdrOff.toNat + s.expectedLen.toNat ≤ s.capacity) :
    validate s = .ok .ok ↔ s.frameValid := by
  rw [validate_eq s h]
  unfold State.frameValid State.itemsEnd trailerLen
  have e (h2 : ¬s.expectedLen.toNat < 14) : s.hdrOff.toNat + s.expectedLen.toNat - trailerLen + 1 =
      s.hdrOff.toNat + s.expectedLen.toNat - 1 := by unfold trailerLen; omega
  by_cases h1 : s.packetComplete = false
  · simp [h1]
  by_cases h2 : s.expectedLen.toNat < 14
  · simp [h1, h2]
  rw [if_neg h1, if_neg h2, e h2]
  simp only [Bool.not_eq_false] at h1
  simp only [not_lt] at h2
  split_ifs with h3 h4 <;> simp_all

/-- `RequireValid()` passes exactly when `Validate()` answers `OK`, and fails with the other answers (R145). -/
theorem requireValid_eq {s : State} {code : ResultCode} (h : validate s = .ok code) :
    requireValid s = if code = .ok then .ok () else .error (.raise code) := by
  unfold requireValid
  rw [h, Cmd.ok_bind]
  unfold raiseIf
  split_ifs <;> simp_all

theorem State.Inv.bufferOk {s : State} (h : s.Inv) : s.bufferOk := h.1
theorem State.Inv.cursorInBuffer {s : State} (h : s.Inv) : s.cursorInBuffer := h.2.1
theorem State.Inv.lengthHasHeader {s : State} (h : s.Inv) : s.lengthHasHeader := h.2.2.1
theorem State.Inv.completeHasFrame {s : State} (h : s.Inv) : s.completeHasFrame := h.2.2.2.1
theorem State.Inv.headerIsMagic {s : State} (h : s.Inv) : s.headerIsMagic := h.2.2.2.2.1
theorem State.Inv.lengthIsField {s : State} (h : s.Inv) : s.lengthIsField := h.2.2.2.2.2.1
theorem State.Inv.buildIsStarted {s : State} (h : s.Inv) : s.buildIsStarted := h.2.2.2.2.2.2.1
theorem State.Inv.headerIsFirst {s : State} (h : s.Inv) : s.headerIsFirst := h.2.2.2.2.2.2.2.1
theorem State.Inv.completedBuildIsValid {s : State} (h : s.Inv) : s.completedBuildIsValid := h.2.2.2.2.2.2.2.2

/-- In a state with the invariants a complete frame lies in the buffer (V1, V3). -/
theorem State.Inv.frameInBuffer {s : State} (h : s.Inv) (hc : s.packetComplete = true) :
    s.hdrOff.toNat + s.expectedLen.toNat ≤ s.capacity :=
  Nat.le_trans (h.completeHasFrame hc).2 h.cursorInBuffer

/-- The invariants do not speak of the port: a response changes none of them. -/
theorem State.Inv.respond {s : State} (h : s.Inv) (r : Response) : (s.respond r).Inv := h

/-- Every 2-byte and 16-bit quantity of a buffer is below 65536. -/
theorem State.capacity_lt (s : State) : s.capacity < 65536 := s.config.cap.isLt

/-- One entry of the walk, for an item section inside the buffer (R144). -/
theorem walkFrom_zero {s : State} (h : s.itemsEnd ≤ s.capacity) (p : Nat) : walkFrom s 0 p = .ok (s.itemAt p) := by
  unfold walkFrom State.itemAt
  simp only [itemHdrLen]
  by_cases h1 : p + 3 > s.itemsEnd
  · rw [if_pos h1, if_pos h1]
  rw [if_neg h1, if_neg h1, State.memRead2_ok (by omega), Cmd.ok_bind]
  split_ifs <;> rfl

/-- One entry of the walk, and the rest from where the item ends (R144). -/
theorem walkFrom_succ {s : State} (h : s.itemsEnd ≤ s.capacity) (k p : Nat) :
    walkFrom s (k + 1) p =
      match s.itemAt p with
      | none => .ok none
      | some (q, len) => walkFrom s k (q + 3 + len) := by
  rw [walkFrom]
  unfold State.itemAt
  simp only [itemHdrLen]
  by_cases h1 : p + 3 > s.itemsEnd
  · rw [if_pos h1, if_pos h1]
  rw [if_neg h1, if_neg h1, State.memRead2_ok (by omega), Cmd.ok_bind]
  simp only [Nat.add_assoc, Nat.reduceAdd]
  split_ifs <;> rfl

end Sys2Proof.Machine
end

