-- ==== Sys2Proof/Laws/PerInstr.lean ====
section
/-! SUPPORT. One statement about every command as syntax: its packet is as long as the format of its opcode says (R87,
R88). -/

namespace Sys2Proof.Laws

/-- The packet of a well-formed command has an opcode of the map and exactly its format's packet length (R88). -/
def EncodeLength.Statement (i : Instr) : Prop :=
  WellFormed i → ∃ f, formatOf (opcode i) = some f ∧ (encode i).length = f.packetLength (f.lengthField (encode i))

/-- The length operand read back out of a packet, low byte first. -/
theorem EncodeLength.lengthOperand (n : U16) :
    (u16 (BitVec.ofNat 8 (n.toNat % 256)) (BitVec.ofNat 8 (n.toNat / 256))).toNat = n.toNat :=
  congrArg BitVec.toNat (u16_le16 n)

theorem EncodeLength.resetBuffer : EncodeLength.Statement .resetBuffer :=
  fun _ => ⟨_, rfl, rfl⟩

theorem EncodeLength.lockBuffer : EncodeLength.Statement .lockBuffer :=
  fun _ => ⟨_, rfl, rfl⟩

theorem EncodeLength.unlockBuffer : EncodeLength.Statement .unlockBuffer :=
  fun _ => ⟨_, rfl, rfl⟩

theorem EncodeLength.getLockStatus : EncodeLength.Statement .getLockStatus :=
  fun _ => ⟨_, rfl, rfl⟩

theorem EncodeLength.readReg (reg : Byte) : EncodeLength.Statement (.readReg reg) :=
  fun _ => ⟨_, rfl, rfl⟩

theorem EncodeLength.startNewMessage (src dst : Byte) : EncodeLength.Statement (.startNewMessage src dst) :=
  fun _ => ⟨_, rfl, rfl⟩

theorem EncodeLength.addAckRequest : EncodeLength.Statement .addAckRequest :=
  fun _ => ⟨_, rfl, rfl⟩

theorem EncodeLength.addAckStatus : EncodeLength.Statement .addAckStatus :=
  fun _ => ⟨_, rfl, rfl⟩

theorem EncodeLength.addNackStatus : EncodeLength.Statement .addNackStatus :=
  fun _ => ⟨_, rfl, rfl⟩

theorem EncodeLength.addData (type : Byte) (n : U16) (payload : List Byte) : EncodeLength.Statement (.addData type n payload) :=
  fun h => ⟨_, rfl, by
    change _ = _ at h
    simp [encode, encodeOperands, le16, Format.packetLength, Format.lengthField, opcode, EncodeLength.lengthOperand, h]
    omega⟩

theorem EncodeLength.completeMessage : EncodeLength.Statement .completeMessage :=
  fun _ => ⟨_, rfl, rfl⟩

theorem EncodeLength.getSendPacket (max : U16) : EncodeLength.Statement (.getSendPacket max) :=
  fun _ => ⟨_, rfl, rfl⟩

theorem EncodeLength.generateAckMessage (src dst : Byte) : EncodeLength.Statement (.generateAckMessage src dst) :=
  fun _ => ⟨_, rfl, rfl⟩

theorem EncodeLength.generateNackMessage (src dst : Byte) : EncodeLength.Statement (.generateNackMessage src dst) :=
  fun _ => ⟨_, rfl, rfl⟩

theorem EncodeLength.addReceivedBytes (n : U16) (bytes : List Byte) : EncodeLength.Statement (.addReceivedBytes n bytes) :=
  fun h => ⟨_, rfl, by
    change _ = _ at h
    simp [encode, encodeOperands, le16, Format.packetLength, Format.lengthField, opcode, EncodeLength.lengthOperand, h]
    omega⟩

theorem EncodeLength.dataAvailable : EncodeLength.Statement .dataAvailable :=
  fun _ => ⟨_, rfl, rfl⟩

theorem EncodeLength.validateData : EncodeLength.Statement .validateData :=
  fun _ => ⟨_, rfl, rfl⟩

theorem EncodeLength.getDataCount : EncodeLength.Statement .getDataCount :=
  fun _ => ⟨_, rfl, rfl⟩

theorem EncodeLength.getDataInfo (k : U16) : EncodeLength.Statement (.getDataInfo k) :=
  fun _ => ⟨_, rfl, rfl⟩

theorem EncodeLength.getData (off : U16) (type : Byte) (n max : U16) : EncodeLength.Statement (.getData off type n max) :=
  fun _ => ⟨_, rfl, rfl⟩

theorem EncodeLength.getSourceId : EncodeLength.Statement .getSourceId :=
  fun _ => ⟨_, rfl, rfl⟩

theorem EncodeLength.getDestinationId : EncodeLength.Statement .getDestinationId :=
  fun _ => ⟨_, rfl, rfl⟩

theorem EncodeLength.getAckStatus : EncodeLength.Statement .getAckStatus :=
  fun _ => ⟨_, rfl, rfl⟩

theorem EncodeLength.getAckRequest : EncodeLength.Statement .getAckRequest :=
  fun _ => ⟨_, rfl, rfl⟩

theorem EncodeLength.findHeaderPosition (n : U16) (bytes : List Byte) : EncodeLength.Statement (.findHeaderPosition n bytes) :=
  fun h => ⟨_, rfl, by
    change _ = _ at h
    simp [encode, encodeOperands, le16, Format.packetLength, Format.lengthField, opcode, EncodeLength.lengthOperand, h]
    omega⟩

theorem EncodeLength.getMessageBufferLen (hpos n : U16) (bytes : List Byte) : EncodeLength.Statement (.getMessageBufferLen hpos n bytes) :=
  fun h => ⟨_, rfl, by
    change _ = _ at h
    simp [encode, encodeOperands, le16, Format.packetLength, Format.lengthField, opcode, EncodeLength.lengthOperand, h]
    omega⟩

theorem EncodeLength.crc16 (n : U16) (bytes : List Byte) : EncodeLength.Statement (.crc16 n bytes) :=
  fun h => ⟨_, rfl, by
    change _ = _ at h
    simp [encode, encodeOperands, le16, Format.packetLength, Format.lengthField, opcode, EncodeLength.lengthOperand, h]
    omega⟩

end Sys2Proof.Laws
end

