-- ==== Sys2Proof/Tests/Slice0.lean ====
section
/-! SUPPORT. The model's own tests: ill-formed terms refused, packets written out from the encoding tables, single
steps against the spec's worked examples and test vectors, and for every statement with hypotheses a witness that meets
them. Expected values are the spec's (the rule or vector named in each docstring). -/

namespace Sys2Proof.Machine.Tests

-- One theorem is checked at a time: each worker thread of a parallel check reserves its own stack.
set_option Elab.async false

/-! Helpers. -/

/-- Whether an outcome is a next state. -/
def answers : Host.Outcome State Fault Refusal → Bool
  | .next _ => true
  | .fault _ => false
  | .refused _ => false

/-- The next state of an outcome, the reset state for the others. -/
def result : Host.Outcome State Fault Refusal → State
  | .next t => t
  | .fault _ => State.reset
  | .refused _ => State.reset

/-- An outcome that is a next state is its own result. -/
theorem next_result {o : Host.Outcome State Fault Refusal} (h : answers o = true) : o = .next (result o) := by
  cases o <;> first | rfl | cases h

/-- The newest response after a command. -/
def reply (i : Instr) (s : State) : Option Response := (result (exec i s)).responses.getLast?

/-- The state after one command. -/
def after (i : Instr) (s : State) : State := result (exec i s)

/-- The invariants, as a test to evaluate. -/
def inv (s : State) : Bool := decide s.Inv

/-- The test says what it stands for. -/
theorem inv_spec (s : State) : inv s = true ↔ s.Inv := decide_eq_true_iff

/-- A valid frame in the buffer, as a test to evaluate. -/
def valid (s : State) : Bool := decide s.frameValid

/-- The test says what it stands for. -/
theorem valid_spec (s : State) : valid s = true ↔ s.frameValid := decide_eq_true_iff

/-- An open, unlocked build that has the invariants and no item, as a test to evaluate. -/
def openBuild (s : State) : Bool := inv s && !s.lock && !s.packetComplete && s.txStarted && s.cursor == 12

/-- The test says what it stands for. -/
theorem openBuild_spec (s : State) : openBuild s = true ↔
    s.Inv ∧ s.lock = false ∧ s.packetComplete = false ∧ s.txStarted = true ∧ s.cursor = 12 := by
  simp [openBuild, inv_spec, and_assoc]

/-- A command that completes with `OK`, as a test to evaluate. -/
def succeeds (i : Instr) (s : State) : Bool := answers (exec i s) && (after i s).lastOk

/-- A reset unit of a capacity, its buffer all zero. -/
def empty (cap : U16) : State := State.resetWith cap []

/-- The frame of section 3 of the encodings (V-RX1 row 1). -/
def f20 : List Byte :=
  [0x55, 0x41, 0x54, 0x43, 0x3A, 0x14, 0x00, 1, 2, 0x14, 1, 0, 7, 3, 0, 0x10, 0x20, 0x30, 0xA8, 0x85]

/-- Frame `X` of V-RX3: count 2, one item, checksum right. -/
def frameX : List Byte :=
  [0x55, 0x41, 0x54, 0x43, 0x3A, 0x14, 0x00, 1, 2, 0x10, 2, 0, 7, 3, 0, 0x10, 0x20, 0x30, 0x9D, 0x30]

/-- Frame `Y` of V-RX3: its item length overruns the section. -/
def frameY : List Byte :=
  [0x55, 0x41, 0x54, 0x43, 0x3A, 0x14, 0x00, 1, 2, 0x10, 1, 0, 7, 9, 0, 0x10, 0x20, 0x30, 0xE5, 0xF6]

/-- A unit of capacity 64 with a build open (the example of R110). -/
def opened : State := after (.startNewMessage 1 2) (empty 64)

/-- That build with one item (the example of R114). -/
def withItem : State := after (.addData 7 3 [0x10, 0x20, 0x30]) opened

/-- That build with an ack request, completed (the example of R115). -/
def completed : State := after .completeMessage (after .addAckRequest withItem)

/-- A unit of capacity 64 that received a byte string whole. -/
def received (bs : List Byte) : State := after (feed bs) (empty 64)

/-- A locked unit. -/
def locked : State := after .lockBuffer (empty 64)

/-! Ill-formed terms are refused by each check of `WellFormed`. -/

theorem test_illFormed_addData : ¬ WellFormed (.addData 7 3 [1, 2]) := by decide
theorem test_illFormed_addReceivedBytes : ¬ WellFormed (.addReceivedBytes 1 []) := by decide
theorem test_illFormed_findHeaderPosition : ¬ WellFormed (.findHeaderPosition 0 [1]) := by decide
theorem test_illFormed_getMessageBufferLen : ¬ WellFormed (.getMessageBufferLen 0 2 [1, 2, 3]) := by decide
theorem test_illFormed_crc16 : ¬ WellFormed (.crc16 2 [1]) := by decide

/-! Decoding: one packet of every command, written out from R87 and R92. -/

theorem test_decode_lifecycle :
    decode [0x01] = .ok .resetBuffer ∧ decode [0x02] = .ok .lockBuffer ∧ decode [0x03] = .ok .unlockBuffer ∧
    decode [0x04] = .ok .getLockStatus ∧ decode [0x05, 0x07] = .ok (.readReg 7) := by decide

theorem test_decode_transmit :
    decode [0x10, 0xA1, 0xB2] = .ok (.startNewMessage 0xA1 0xB2) ∧ decode [0x11] = .ok .addAckRequest ∧
    decode [0x12] = .ok .addAckStatus ∧ decode [0x13] = .ok .addNackStatus ∧
    decode [0x14, 0x07, 0x02, 0x00, 0xAA, 0xBB] = .ok (.addData 7 2 [0xAA, 0xBB]) ∧
    decode [0x15] = .ok .completeMessage ∧ decode [0x16, 0x34, 0x12] = .ok (.getSendPacket 0x1234) ∧
    decode [0x17, 0xA1, 0xB2] = .ok (.generateAckMessage 0xA1 0xB2) ∧
    decode [0x18, 0xA1, 0xB2] = .ok (.generateNackMessage 0xA1 0xB2) := by decide

theorem test_decode_receive :
    decode [0x20, 0x01, 0x00, 0x55] = .ok (.addReceivedBytes 1 [0x55]) ∧ decode [0x21] = .ok .dataAvailable ∧
    decode [0x22] = .ok .validateData ∧ decode [0x23] = .ok .getDataCount ∧
    decode [0x24, 0x34, 0x12] = .ok (.getDataInfo 0x1234) ∧
    decode [0x25, 0x0F, 0x01, 0x07, 0x03, 0x02, 0x09, 0x04] = .ok (.getData 0x010F 7 0x0203 0x0409) ∧
    decode [0x26] = .ok .getSourceId ∧ decode [0x27] = .ok .getDestinationId ∧ decode [0x28] = .ok .getAckStatus ∧
    decode [0x29] = .ok .getAckRequest := by decide

theorem test_decode_stateless :
    decode [0x30, 0x02, 0x00, 0x01, 0x02] = .ok (.findHeaderPosition 2 [1, 2]) ∧
    decode [0x31, 0x34, 0x12, 0x01, 0x00, 0x09] = .ok (.getMessageBufferLen 0x1234 1 [9]) ∧
    decode [0x32, 0x00, 0x00] = .ok (.crc16 0 []) := by decide

/-- Malformed packets (section 2.7 of the vectors): empty, reserved, too short, too long. -/
theorem test_decode_malformed :
    decode [] = .error .emptyPacket ∧ decode [0x06] = .error (.reservedOpcode 0x06) ∧
    decode [0x05] = .error (.wrongLength 0x05) ∧ decode [0x01, 0x00] = .error (.wrongLength 0x01) ∧
    decode [0x20, 0x02, 0x00, 0x55] = .error (.wrongLength 0x20) := by decide

/-- Opcode-table words: bit 0 is the least significant bit of the first packet byte; the rest of the packet is zero. -/
theorem test_decodeTableWord :
    decodeTableWord 8 0x01 = some .resetBuffer ∧ decodeTableWord 24 0x020110 = some (.startNewMessage 1 2) ∧
    decodeTableWord 24 0x000220 = some (.addReceivedBytes 2 [0, 0]) ∧ decodeTableWord 8 0x06 = none := by decide

/-- A word put on the port is the very next step. -/
theorem test_withFetchWord :
    step (State.reset.withFetchWord 24 0x020110) = exec (.startNewMessage 1 2) State.reset := rfl

/-! One step of each command. -/

/-- R110's example. -/
theorem test_startNewMessage :
    opened.bytes 0 12 = [0x55, 0x41, 0x54, 0x43, 0x3A, 0, 0, 1, 2, 0x10, 0, 0] ∧ opened.cursor = 12 ∧
      opened.txStarted = true := by decide +kernel

/-- R111's and R112's examples: `0x10` becomes `0x14`; `0x16` becomes `0x15`. -/
theorem test_ackSetters :
    (after .addAckRequest opened).byteAt 9 = 0x14 ∧
    (after .addAckStatus (after .addNackStatus (after .addAckRequest opened))).byteAt 9 = 0x15 := by decide +kernel

/-- R113's example: `0x15` becomes `0x16`. -/
theorem test_addNackStatus :
    (after .addNackStatus (after .addAckStatus (after .addAckRequest opened))).byteAt 9 = 0x16 := by decide +kernel

/-- R114's example. -/
theorem test_addData :
    withItem.cursor = 18 ∧ withItem.bytes 10 12 = [1, 0] ∧ withItem.bytes 12 18 = [7, 3, 0, 0x10, 0x20, 0x30] := by
  decide +kernel

/-- R115's example: the built frame is `F20`, the length 20 is the response value, the unit is locked. -/
theorem test_completeMessage :
    completed.bytes 0 20 = f20 ∧ completed.lock = true ∧
      reply .completeMessage (after .addAckRequest withItem) = some ⟨.ok, 20, []⟩ := by decide +kernel

/-- R116's example, and the bound of V-TX5. -/
theorem test_getSendPacket :
    reply (.getSendPacket 64) completed = some ⟨.ok, 20, f20⟩ ∧
      reply (.getSendPacket 19) completed = some ⟨.noEnoughSpace, 0, []⟩ := by decide +kernel

/-- R117's example. -/
theorem test_generateAckMessage :
    (after (.generateAckMessage 1 2) (empty 14)).bytes 0 14 =
      [0x55, 0x41, 0x54, 0x43, 0x3A, 0x0E, 0, 1, 2, 0x11, 0, 0, 0x01, 0x99] := by decide +kernel

/-- R118's example. -/
theorem test_generateNackMessage :
    (after (.generateNackMessage 2 1) (empty 14)).bytes 0 14 =
      [0x55, 0x41, 0x54, 0x43, 0x3A, 0x0E, 0, 2, 1, 0x12, 0, 0, 0x64, 0x4E] := by decide +kernel

/-- R130's example. -/
theorem test_addReceivedBytes :
    (received f20).cursor = 20 ∧ (received f20).hdrOff = 0 ∧ (received f20).expectedLen = 20 ∧
      (received f20).packetComplete = true := by decide +kernel

/-- R140's example. -/
theorem test_dataAvailable :
    reply .dataAvailable (received (f20.take 19)) = some ⟨.ok, 0, []⟩ ∧
      reply .dataAvailable (received f20) = some ⟨.ok, 1, []⟩ := by decide +kernel

/-- R141's examples. -/
theorem test_validateData :
    reply .validateData (received (f20.set 16 0x21)) = some ⟨.packageCorrupted, 0, []⟩ ∧
      reply .validateData (received (f20.take 6)) = some ⟨.packageNotComplete, 0, []⟩ := by decide +kernel

/-- R142's, R149's and R150's examples. -/
theorem test_getters :
    reply .getDataCount (received f20) = some ⟨.ok, 1, []⟩ ∧ reply .getSourceId (received f20) = some ⟨.ok, 1, []⟩ ∧
      reply .getDestinationId (received f20) = some ⟨.ok, 2, []⟩ := by decide +kernel

/-- R151's and R152's examples. -/
theorem test_ackGetters :
    reply .getAckStatus (received f20) = some ⟨.ok, 0, []⟩ ∧
      reply .getAckRequest (received f20) = some ⟨.ok, 1, []⟩ := by decide +kernel

/-- R146's examples: after three garbage bytes, and an index out of range. -/
theorem test_getDataInfo :
    reply (.getDataInfo 0) (received ([1, 2, 3] ++ f20)) = some ⟨.ok, 18, [0x12, 0, 7, 3, 0]⟩ ∧
      reply (.getDataInfo 1) (received f20) = some ⟨.invalidParameter, 0, []⟩ := by decide +kernel

/-- V-RX3: the walk's two bound checks. -/
theorem test_getDataInfo_overrun :
    reply (.getDataInfo 1) (received frameX) = some ⟨.packageNotValid, 0, []⟩ ∧
      reply (.getDataInfo 0) (received frameY) = some ⟨.packageNotValid, 0, []⟩ := by decide +kernel

/-- R148's examples. -/
theorem test_getData :
    reply (.getData 15 7 3 3) (received f20) = some ⟨.ok, 3, [0x10, 0x20, 0x30]⟩ ∧
      reply (.getData 16 7 3 9) (received f20) = some ⟨.invalidParameter, 0, []⟩ := by decide +kernel

/-- R161's examples. -/
theorem test_findHeaderPosition :
    reply (.findHeaderPosition 11 [0x55, 0x55, 0x41, 0x54, 0x43, 0x3A, 0x55, 0x41, 0x54, 0x43, 0x3A]) (empty 0) =
      some ⟨.ok, 1, []⟩ ∧
    reply (.findHeaderPosition 5 [0x55, 0x41, 0x54, 0x43, 0x3B]) (empty 0) = some ⟨.ok, 0xFFFF, []⟩ := by
  decide +kernel

/-- R162's examples. -/
theorem test_getMessageBufferLen :
    reply (.getMessageBufferLen 2 9 [1, 2, 3, 4, 5, 6, 7, 8, 9]) (empty 0) = some ⟨.ok, 2312, []⟩ ∧
    reply (.getMessageBufferLen 0 6 [0x55, 0x41, 0x54, 0x43, 0x3A, 0x14]) (empty 0) =
      some ⟨.invalidParameter, 0, []⟩ := by decide +kernel

/-- R187: the reference value of "123456789". -/
theorem test_crc16 :
    reply (.crc16 9 [0x31, 0x32, 0x33, 0x34, 0x35, 0x36, 0x37, 0x38, 0x39]) (empty 0) = some ⟨.ok, 0x906E, []⟩ := by
  decide +kernel

/-- R170's, R171's and R172's examples. -/
theorem test_lock :
    reply .lockBuffer locked = some ⟨.bufferLocked, 0, []⟩ ∧ (after .unlockBuffer locked).lock = false ∧
      reply .getLockStatus completed = some ⟨.ok, 1, []⟩ := by decide +kernel

/-- R171's example: an unlocked completed build is still complete. -/
theorem test_unlockBuffer :
    reply (.addData 1 0 []) (after .unlockBuffer completed) = some ⟨.packageAlreadyComplete, 0, []⟩ := by
  decide +kernel

/-- R173's example. -/
theorem test_resetBuffer :
    (after .resetBuffer completed).unit = { empty 64 with buf := completed.buf } := by decide +kernel

/-- R175's example: the register map after the first seven bytes of a frame. -/
theorem test_readReg :
    [0, 1, 2, 4, 5, 6].map (fun r => (reply (.readReg r) (received (f20.take 7))).map Response.value) =
      [some 0x000A, some 7, some 20, some 0x4155, some 0x4354, some 0x003A] := by decide +kernel

/-! Witnesses: concrete values that meet all the hypotheses of each statement that has any. -/

theorem witness_DecodeInvertsEncode : WellFormed (.addData 7 3 [1, 2, 3]) := by decide

theorem witness_EveryPacketIsOneCommandOrIsAnsweredMalformed :
    ¬ Malformed [0x20, 0x01, 0x00, 0x55] ∧ Malformed [] ∧ Malformed [0x06] ∧ Malformed [0x33] ∧ Malformed [0x05] ∧
      State.pending { empty 64 with pending := [[0x06]] } = [0x06] :: [] := by
  simp [Malformed, formatOf, Format.packetLength, Format.lengthField, u16]

theorem witness_ResponsePacketCarriesItsFields : (⟨.ok, 3, [1, 2, 3]⟩ : Response).data.length ≤ 65535 := by decide

theorem witness_StepRunsTheDecodedCommand :
    State.pending { empty 64 with pending := [[0x17, 1, 2]] } = [0x17, 1, 2] :: [] ∧
      decode [0x17, 1, 2] = .ok (.generateAckMessage 1 2) := by decide

theorem witness_StepWithNoPacketChangesNothing : (empty 64).pending = [] := rfl

theorem witness_EveryPacketGetsExactlyOneResponse :
    State.pending { empty 64 with pending := [[0x17, 1, 2]] } = [0x17, 1, 2] :: [] ∧
      answers (step { empty 64 with pending := [[0x17, 1, 2]] }) = true := by decide +kernel

theorem witness_ResetStateHasTheInvariants :
    Memory.wf [(0, 0x55), (31, 1)] = true ∧ Memory.within (32 : U16).toNat [(0, 0x55), (31, 1)] = true := by decide

/-- States with the invariants, one in each phase. -/
theorem witness_invariants :
    inv (empty 64) = true ∧ inv (received (f20.take 5)) = true ∧ inv (received (f20.take 19)) = true ∧ inv (received f20) = true ∧ inv opened = true ∧
      inv completed = true := by decide +kernel

theorem witness_ExactlyOnePhaseRowApplies :
    [empty 64, received (f20.take 6), received (f20.take 7), received f20, opened, completed].map State.phase =
      [.hunt, .length, .body, .rxDone, .txBuild, .txDone] := by decide +kernel

theorem witness_EveryStepKeepsTheInvariants :
    inv { opened with pending := [[0x15]] } = true ∧ answers (step { opened with pending := [[0x15]] }) = true := by
  decide +kernel

theorem witness_FailedCommandsChangeNothing :
    exec .lockBuffer locked = .next (after .lockBuffer locked) ∧
      (after .lockBuffer locked).responses = locked.responses ++ [⟨.bufferLocked, 0, []⟩] ∧
      ResultCode.bufferLocked ≠ .ok := ⟨rfl, by decide, by decide⟩

theorem witness_TheLockRefusesTheTenCommandsFirst :
    completed.lock = true ∧ lockGuarded .lockBuffer = true ∧ isQuery .dataAvailable = true ∧
      (after .dataAvailable { completed with lock := false }) =
        State.respond { completed with lock := false } ⟨.ok, 1, []⟩ := by decide +kernel

theorem witness_QueriesOnlyAnswer :
    isQuery .getAckRequest = true ∧ exec .getAckRequest (received f20) = .next (after .getAckRequest (received f20)) :=
  ⟨rfl, next_result (by decide +kernel)⟩

theorem witness_AnswersStayInTheFailureMatrix :
    exec (.getDataInfo 1) (received frameX) = .next (after (.getDataInfo 1) (received frameX)) ∧
      (after (.getDataInfo 1) (received frameX)).responses =
        (received frameX).responses ++ [⟨.packageNotValid, 0, []⟩] :=
  ⟨next_result (by decide +kernel), by decide +kernel⟩

/-- Each kind of change of the statement happens: buffer and cursor, frame registers, and every flag both ways. -/
theorem witness_StateChangesOnlyUnderTheListedCommands :
    (after (.startNewMessage 1 2) (empty 64)).buf ≠ (empty 64).buf ∧ withItem.cursor ≠ opened.cursor ∧
    (received f20).expectedLen ≠ (empty 64).expectedLen ∧ (received f20).hdrSnap ≠ (empty 64).hdrSnap ∧
    (received ([1] ++ f20)).hdrOff ≠ (empty 64).hdrOff ∧
    (locked.lock = true ∧ (after .unlockBuffer locked).lock = false) ∧
    ((received f20).headerPresent = true ∧ (after .resetBuffer (received f20)).headerPresent = false) ∧
    ((received f20).packetComplete = true ∧ (after (.startNewMessage 1 2) (received f20)).packetComplete = false) ∧
    ((received f20).lenValid = true ∧ (after (.startNewMessage 1 2) (received f20)).lenValid = false) ∧
    (opened.txStarted = true ∧ (after .resetBuffer opened).txStarted = false) := by decide +kernel

theorem witness_ACompleteFrameIsKept :
    inv (received f20) = true ∧ (received f20).packetComplete = true ∧ discards (feed [1, 2]) = false ∧
      answers (exec (feed [1, 2]) (received f20)) = true := by decide +kernel

/-- The two states differ in byte 40, above the cursor. -/
theorem witness_BytesAboveTheCursorAreUnobservable :
    inv (received f20) = true ∧ inv ((received f20).withBuf ((received f20).buf.write 40 9)) = true ∧ WellFormed .getDataCount ∧
      (∀ a, a < (received f20).cursor.toNat →
        ((received f20).withBuf ((received f20).buf.write 40 9)).byteAt a = (received f20).byteAt a) ∧
      answers (exec .getDataCount (received f20)) = true := by decide +kernel

theorem witness_ValidateNeverFindsAWrongHeader : inv (received frameY) = true := by decide +kernel

theorem witness_LockBufferTestsAndSets : locked.lock = true ∧ (empty 64).lock = false := by decide

theorem witness_ReadRegReadsTheRegisterMap : 7 < (8 : Byte).toNat ∧ (7 : Byte).toNat ≤ 7 := by decide

/-- The three refusals of the builder check, each reached. -/
theorem witness_BuilderCommandsCheckInOrder :
    isAckSetter .addNackStatus = true ∧ isAddData (.addData 1 0 []) = true ∧ isComplete .completeMessage = true ∧
    completed.lock = true ∧
    ((after .unlockBuffer completed).lock = false ∧ (after .unlockBuffer completed).packetComplete = true) ∧
    ((empty 64).lock = false ∧ (empty 64).packetComplete = false ∧ (empty 64).txStarted = false) := by decide +kernel

/-- Both sides of the capacity check: 11 and 12. -/
theorem witness_StartNewMessageOpensABuild :
    (locked.bufferOk ∧ locked.lock = true) ∧ ((empty 11).bufferOk ∧ (empty 11).lock = false ∧ (empty 11).capacity < 12) ∧
      ((empty 12).bufferOk ∧ (empty 12).lock = false ∧ 12 ≤ (empty 12).capacity) := by decide +kernel

theorem witness_AckSettersPatchTheTypeByte :
    inv opened = true ∧ opened.lock = false ∧ opened.packetComplete = false ∧ opened.txStarted = true ∧
      opened.byteAt 9 ||| 0x04 = 0x14 ∧ (opened.byteAt 9 &&& 0xFC) ||| 0x01 = 0x11 ∧
      (opened.byteAt 9 &&& 0xFC) ||| 0x02 = 0x12 := by decide +kernel

/-- Both sides of the space check: capacities 17 and 18 for a three-byte payload. -/
theorem witness_AddDataAppendsOneItem :
    WellFormed (.addData 7 3 [1, 2, 3]) ∧
    openBuild (after (.startNewMessage 1 2) (empty 17)) = true ∧
    openBuild (after (.startNewMessage 1 2) (empty 18)) = true ∧
    12 + 3 + (3 : U16).toNat > (empty 17).capacity ∧ 12 + 3 + (3 : U16).toNat ≤ (empty 18).capacity := by
  decide +kernel

/-- Both sides of the space check: capacities 13 and 14 for a build without items. -/
theorem witness_CompleteMessageFinishesTheFrame :
    openBuild (after (.startNewMessage 1 2) (empty 13)) = true ∧
    openBuild (after (.startNewMessage 1 2) (empty 14)) = true ∧
    12 + 2 > (empty 13).capacity ∧ 12 + 2 ≤ (empty 14).capacity := by decide +kernel

theorem witness_GetSendPacketCopiesTheFrame :
    (inv opened = true ∧ opened.packetComplete = false) ∧ (inv completed = true ∧ completed.packetComplete = true) ∧
      (19 : U16).toNat < completed.expectedLen.toNat ∧ completed.expectedLen.toNat ≤ (20 : U16).toNat := by
  decide +kernel

/-- The capacities around the two checks: 11, 12, 13, 14. -/
theorem witness_GenerateBuildsAControlFrame :
    (locked.bufferOk ∧ locked.lock = true) ∧
    ((empty 11).bufferOk ∧ (empty 11).lock = false) ∧ ((empty 12).bufferOk ∧ (empty 12).lock = false) ∧
    ((empty 13).bufferOk ∧ (empty 13).lock = false) ∧ ((empty 14).bufferOk ∧ (empty 14).lock = false) ∧
    (empty 11).capacity < 12 ∧ (12 ≤ (empty 12).capacity ∧ (empty 13).capacity < 14) ∧ 14 ≤ (empty 14).capacity := by
  decide +kernel

theorem witness_GenerateEqualsItsThreeCommands :
    opened.bufferOk ∧ opened.lock = false ∧ 14 ≤ opened.capacity := by decide +kernel

/-- The builder commands of the round-trip witnesses. -/
def someOps : List Instr := [.addNackStatus, .addData 7 3 [0x10, 0x20, 0x30], .addAckRequest, .addData 9 0 []]

theorem witness_BuilderProducesTheWellFormedFrame :
    (received f20).bufferOk ∧ (received f20).lock = false ∧ someOps.all isBuildOp = true ∧
      frameLength (itemsOf someOps) ≤ (received f20).capacity := by decide +kernel

theorem witness_BuilderProducesTheWellFormedFrame_operations : ∀ i ∈ someOps, WellFormed i := by
  simp only [someOps, List.forall_mem_cons]
  exact ⟨trivial, rfl, trivial, rfl, by simp⟩

/-- The items of the statement fill the buffer exactly, with no room for a trailer. -/
theorem witness_AnOpenBuildHoldsItsItems :
    (empty 21).bufferOk ∧ (empty 21).lock = false ∧ someOps.all isBuildOp = true ∧
      12 + (itemsToBytes (itemsOf someOps)).length = (empty 21).capacity := by decide +kernel

theorem witness_CompletedBuildLooksReceived :
    inv withItem = true ∧ answers (exec .completeMessage withItem) = true ∧ (after .completeMessage withItem).lastOk = true ∧
      Memory.wf [] = true ∧ Memory.within withItem.capacity [] = true := by decide +kernel

/-- A failing and a succeeding command of each row of the table. -/
theorem witness_TransmitPhasesMoveAsTabled :
    inv completed = true ∧ answers (exec .completeMessage completed) = true ∧
      (after .completeMessage completed).lastOk = false ∧ inv opened = true ∧
    ([Instr.startNewMessage 1 2, .generateAckMessage 1 2, .addAckRequest, .addData 1 0 [], .completeMessage,
      .dataAvailable, .resetBuffer, .lockBuffer, .unlockBuffer].all fun i => succeeds i opened) = true := by
  decide +kernel

/-- The three refusals and the two sides of the space check, and the parse from each receiving phase. -/
theorem witness_AddReceivedBytesAppendsAndParses :
    (inv locked = true ∧ locked.lock = true) ∧ (inv opened = true ∧ opened.lock = false ∧ opened.txStarted = true) ∧
    WellFormed (feed f20) ∧
    (inv (empty 19) = true ∧ (empty 19).lock = false ∧ (empty 19).txStarted = false ∧
      (empty 19).cursor.toNat + (BitVec.ofNat 16 f20.length).toNat > (empty 19).capacity) ∧
    (inv (empty 20) = true ∧ (empty 20).lock = false ∧ (empty 20).txStarted = false ∧
      (empty 20).cursor.toNat + (BitVec.ofNat 16 f20.length).toNat ≤ (empty 20).capacity) := by decide +kernel

theorem witness_AddReceivedBytesAppendsAndParses_phases :
    findMagic ((after (feed f20) (empty 20)).bytes 0 20) = some 0 ∧
    findMagic ((after (feed (f20.take 4)) (empty 20)).bytes 0 4) = none ∧
    (received (f20.take 6)).headerPresent = true ∧ (received (f20.take 6)).lenValid = false := by decide +kernel

/-- The receiving phases left on either side of each bound of the table. -/
theorem witness_ReceivePhasesMoveAsTabled :
    ([4, 5, 6, 7, 19, 20].all fun k => inv (received (f20.take k)) && decide (WellFormed (feed (f20.drop k))) &&
      succeeds (feed (f20.drop k)) (received (f20.take k))) = true ∧
    [4, 5, 6, 7, 19, 20].map (fun k => (received (f20.take k)).phase) =
      [.hunt, .length, .length, .body, .body, .rxDone] ∧
    opened.phase = .txBuild ∧ answers (exec (feed [1]) opened) = true ∧
    completed.phase = .txDone ∧ answers (exec (feed [1]) completed) = true := by decide +kernel

theorem witness_ChunkingDoesNotMatter :
    inv (received [1, 2]) = true ∧ (received [1, 2]).lock = false ∧ (received [1, 2]).txStarted = false ∧
      [f20.take 3, [], f20.drop 3] ≠ [] ∧
      (received [1, 2]).cursor.toNat + [f20.take 3, [], f20.drop 3].flatten.length ≤ (received [1, 2]).capacity := by
  decide +kernel

/-- A state for each answer of `Validate()`; the wrong header stands in a state that no run reaches. -/
theorem witness_ValidateDataAnswersInOrder :
    (opened.packetComplete = true → opened.hdrOff.toNat + opened.expectedLen.toNat ≤ opened.capacity) ∧
    validate opened = .ok .packageNotComplete ∧ validate (received (f20.set 5 13)) = .ok .packageCorrupted ∧
    validate (received (f20.set 16 0x21)) = .ok .packageCorrupted ∧ validate (received f20) = .ok .ok ∧
    (received f20).hdrOff.toNat + (received f20).expectedLen.toNat ≤ (received f20).capacity := by decide +kernel

theorem witness_ValidateDataAnswersInOrder_wrongHeader :
    ∃ s : State, s.packetComplete = true ∧ s.hdrOff.toNat + s.expectedLen.toNat ≤ s.capacity ∧
      validate s = .ok .packageNotValid :=
  ⟨{ received f20 with
      buf := Memory.writeAll 12 (le16 (crc16Of (List.replicate 12 0))) [], hdrOff := 0, expectedLen := 14 },
    by decide +kernel⟩

theorem witness_DataAvailableSaysWhetherTheFrameIsValid :
    valid (received f20) = true ∧ valid opened = false ∧
      (received f20).hdrOff.toNat + (received f20).expectedLen.toNat ≤ (received f20).capacity ∧
      opened.packetComplete = false := by decide +kernel

theorem witness_FrameReadsFailWithTheCodeOfValidate :
    inv (received (f20.set 16 0x21)) = true ∧ valid (received (f20.set 16 0x21)) = false := by decide +kernel

theorem witness_GettersReadTheValidFrame : inv (received f20) = true ∧ valid (received f20) = true := by decide +kernel

theorem witness_WalkFollowsTheItemLengths :
    (received frameX).itemsEnd ≤ (received frameX).capacity ∧ walk (received frameX) 0 = .ok (some (12, 3)) ∧
      walk (received frameX) 1 = .ok none := by decide +kernel

/-- The index on both sides of the count, and both answers of the walk. -/
theorem witness_GetDataInfoAnswersTheDescriptor :
    inv (received frameX) = true ∧ valid (received frameX) = true ∧ (received frameX).countField.toNat ≤ (2 : U16).toNat ∧
      (1 : U16).toNat < (received frameX).countField.toNat ∧ walk (received frameX) (1 : U16).toNat = .ok none ∧
      walk (received frameX) (0 : U16).toNat = .ok (some (12, 3)) := by decide +kernel

/-- Ranges at the edges of the item section `[12, 18)`: `12..18` is inside; `11..` and `..19` are not. -/
theorem witness_GetDataCopiesARangeOfTheSection :
    inv (received f20) = true ∧ valid (received f20) = true ∧ (received f20).hdrOff.toNat + 12 ≤ (12 : U16).toNat ∧
      (12 : U16).toNat + (6 : U16).toNat ≤ (received f20).itemsEnd ∧
      (11 : U16).toNat < (received f20).hdrOff.toNat + 12 ∧
      (received f20).itemsEnd < (12 : U16).toNat + (7 : U16).toNat := by decide +kernel

theorem witness_AFrameGivesItsItemsBack :
    inv (received ([1, 2, 3] ++ f20)) = true ∧ (received ([1, 2, 3] ++ f20)).packetComplete = true ∧
      (received ([1, 2, 3] ++ f20)).expectedLen.toNat = frameLength [⟨7, [0x10, 0x20, 0x30]⟩] ∧
      (received ([1, 2, 3] ++ f20)).bytes 3 23 = frameOf 1 2 0x14 [⟨7, [0x10, 0x20, 0x30]⟩] ∧
      [(⟨7, [0x10, 0x20, 0x30]⟩ : Item)][(0 : U16).toNat]? = some ⟨7, [0x10, 0x20, 0x30]⟩ := by decide +kernel

theorem witness_AFrameIsAvailableExactlyWhenWhole :
    inv (empty 20) = true ∧ (empty 20).cursor = 0 ∧ (empty 20).lock = false ∧ ValidFrame f20 ∧
      f20.length ≤ (empty 20).capacity := by decide +kernel

theorem witness_OneDamagedByteIsFoundCorrupt :
    inv (empty 20) = true ∧ (empty 20).cursor = 0 ∧ (empty 20).lock = false ∧ ValidFrame f20 ∧
      f20.length ≤ (empty 20).capacity ∧ f20.getD 7 0 ≠ 3 ∧ f20.getD 19 0 ≠ 3 := by decide +kernel

theorem witness_FindHeaderPositionAnswersTheOffset :
    WellFormed (.findHeaderPosition 20 f20) ∧ findMagic f20 = some 0 ∧ WellFormed (.findHeaderPosition 0 []) ∧
      findMagic [] = none := by decide +kernel

/-- Both sides of the bound: `hpos + 7` is 8 for the string of 7, 7 for the string of 7. -/
theorem witness_GetMessageBufferLenPeeksTheLength :
    WellFormed (.getMessageBufferLen 1 7 (f20.take 7)) ∧ (1 : U16).toNat + 7 > (7 : U16).toNat ∧
      WellFormed (.getMessageBufferLen 0 7 (f20.take 7)) ∧ (0 : U16).toNat + 7 ≤ (7 : U16).toNat := by decide

theorem witness_StatelessCommandsIgnoreTheState :
    isStateless (.findHeaderPosition 0 []) = true ∧ isStateless (.getMessageBufferLen 0 0 []) = true ∧
      isStateless (.crc16 0 []) = true := by decide

theorem witness_CrcDetectsChangesWithinTwoBytes :
    ([1, 2] : List Byte).length = ([2, 1] : List Byte).length ∧ ([1, 2] : List Byte).length ≤ 2 ∧
      ([1, 2] : List Byte) ≠ [2, 1] := by decide

/-- The smallest capacity of the statement, and operands for its rows. -/
theorem witness_ResetStateAnswersAsTabled :
    Memory.wf [(13, 7)] = true ∧ Memory.within (14 : U16).toNat [(13, 7)] = true ∧ 14 ≤ (14 : U16).toNat ∧
      WellFormed (.addReceivedBytes 1 [1]) ∧ (1 : U16).toNat ≤ (14 : U16).toNat ∧
      (14 : U16).toNat < (15 : U16).toNat := by decide

theorem witness_TwoByteFieldsAreLittleEndianAtAnyOffset :
    (empty 64).bufferOk ∧ 61 + 1 < (empty 64).capacity ∧ 62 + 1 < (empty 64).capacity := by decide +kernel

end Sys2Proof.Machine.Tests
end

section
/-! The step and the command port: one rule per way a step can go, what no command touches (the capacity and both sides
of the port), and the three statements about them. -/

namespace Sys2Proof.Machine

/-! The step, by what stands on the port. -/

/-- With no packet issued a step is the idle step (R8). -/
theorem step_of_pending_nil {s : State} (h : s.pending = []) : step s = s.idle := by
  simp [step, State.fetch, h]

/-- A packet that decodes to a command makes the step that command's, the packet taken off the port (R8). -/
theorem step_of_decode_ok {s : State} {packet : List Byte} {rest : List (List Byte)} {i : Instr}
    (h : s.pending = packet :: rest) (hd : decode packet = .ok i) : step s = exec i { s with pending := rest } := by
  simp [step, State.fetch, h, hd]

/-- A packet that decodes to no command makes the step a failure (R93). -/
theorem step_of_decode_error {s : State} {packet : List Byte} {rest : List (List Byte)} {why : DecodeError}
    (h : s.pending = packet :: rest) (hd : decode packet = .error why) :
    step s = .next (State.fail { s with pending := rest } .invalidParameter) := by
  simp [step, State.fetch, h, hd, State.answerMalformed]

/-! What no command touches. -/

/-- The capacity and both sides of the command port of `t` are those of `s`. -/
structure State.SamePort (s t : State) : Prop where
  config : t.config = s.config
  pending : t.pending = s.pending
  responses : t.responses = s.responses

theorem State.SamePort.refl (s : State) : s.SamePort s := ⟨rfl, rfl, rfl⟩

theorem State.SamePort.trans {s t u : State} (hst : s.SamePort t) (htu : t.SamePort u) : s.SamePort u :=
  ⟨htu.config.trans hst.config, htu.pending.trans hst.pending, htu.responses.trans hst.responses⟩

/-- A buffer write touches neither the capacity nor the port. -/
theorem State.samePort_of_memWriteBytes {s t : State} {a : Nat} {bs : List Byte} (h : s.memWriteBytes a bs = .ok t) :
    s.SamePort t := by
  obtain ⟨-, rfl⟩ := State.memWriteBytes_eq_ok.mp h
  exact ⟨rfl, rfl, rfl⟩

theorem samePort_of_detectHeader {s t : State} (h : detectHeader s = .ok t) : s.SamePort t := by
  unfold detectHeader at h
  split at h
  · cases h
    exact .refl s
  · obtain ⟨accumulated, -, h⟩ := Cmd.bind_eq_ok.mp h
    split at h
    · cases h
      exact .refl s
    · obtain ⟨header, -, h⟩ := Cmd.bind_eq_ok.mp h
      cases h
      exact ⟨rfl, rfl, rfl⟩

theorem samePort_of_parseLength {s t : State} (h : parseLength s = .ok t) : s.SamePort t := by
  unfold parseLength at h
  split at h
  · obtain ⟨len, -, h⟩ := Cmd.bind_eq_ok.mp h
    cases h
    exact ⟨rfl, rfl, rfl⟩
  · cases h
    exact .refl s

theorem samePort_completeFrame (s : State) : s.SamePort (completeFrame s) := by
  unfold completeFrame
  split
  · exact ⟨rfl, rfl, rfl⟩
  · exact .refl s

/-- Whenever the pseudocode `c`, run in `s`, returns, it has left the capacity and the port alone, and its data fits the
16-bit length field of a response packet (R95). -/
def ReturnsToPort (s : State) (c : Cmd Done) : Prop :=
  ∀ d, c = .ok d → s.SamePort d.state ∧ d.data.length ≤ 65535

/-! One rule per shape of a command's pseudocode. -/

namespace ReturnsToPort
variable {s : State}

/-- `return`. -/
theorem ret {d : Done} (hs : s.SamePort d.state) (hd : d.data.length ≤ 65535 := by exact Nat.zero_le _) :
    ReturnsToPort s (.ok d) := by
  intro d' h
  cases h
  exact ⟨hs, hd⟩

/-- A query's `return`. -/
theorem reply {value : U16} {data : List Byte} (hd : data.length ≤ 65535 := by exact Nat.zero_le _) :
    ReturnsToPort s (.ok (s.reply value data)) :=
  ret (.refl s) hd

/-- `raise`. -/
theorem raise {e : Stop} : ReturnsToPort s (.error e) := by
  intro d h
  cases h

/-- A check or a read in front: it gives a value, not a state. -/
theorem observe {α} {x : Cmd α} {f : α → Cmd Done} (hf : ∀ a, x = .ok a → ReturnsToPort s (f a)) :
    ReturnsToPort s (x >>= f) := by
  intro d h
  obtain ⟨a, ha, hd⟩ := Cmd.bind_eq_ok.mp h
  exact hf a ha d hd

/-- A state change in front that leaves the port alone. -/
theorem update {x : Cmd State} {f : State → Cmd Done} (hx : ∀ t, x = .ok t → s.SamePort t)
    (hf : ∀ t, ReturnsToPort t (f t)) : ReturnsToPort s (x >>= f) := by
  intro d h
  obtain ⟨t, ht, hd⟩ := Cmd.bind_eq_ok.mp h
  obtain ⟨hport, hdata⟩ := hf t d hd
  exact ⟨(hx t ht).trans hport, hdata⟩

/-- A buffer write in front. -/
theorem write {a : Nat} {bs : List Byte} {f : State → Cmd Done} (hf : ∀ t, ReturnsToPort t (f t)) :
    ReturnsToPort s (s.memWriteBytes a bs >>= f) :=
  update (fun _ => State.samePort_of_memWriteBytes) hf

/-- A field of the valid frame answered (R142, R149 to R152). -/
theorem validField {α} {x : Cmd α} {value : α → U16} :
    ReturnsToPort s (do requireValid s; let a ← x; return s.reply (value a)) :=
  observe fun _ _ => observe fun _ _ => reply

theorem patchTypeByte (patch : Byte → Byte) : ReturnsToPort s (Machine.patchTypeByte patch s) :=
  observe fun _ _ => observe fun _ _ => write fun t => ret (.refl t)

theorem generate (type src dst : Byte) : ReturnsToPort s (Machine.generate type src dst s) :=
  observe fun _ _ => observe fun _ _ => observe fun _ _ =>
    write fun _ => write fun _ => write fun _ => write fun _ => write fun _ => write fun _ =>
      observe fun _ _ => write fun _ => ret ⟨rfl, rfl, rfl⟩

end ReturnsToPort

open ReturnsToPort in
/-- Every command ends in `State.answer`, on pseudocode that leaves the capacity and the port alone. -/
theorem exec_eq_answer (i : Instr) (s : State) : ∃ c, exec i s = s.answer c ∧ ReturnsToPort s c := by
  cases i with
  | resetBuffer => exact ⟨_, rfl, ret ⟨rfl, rfl, rfl⟩⟩
  | lockBuffer => exact ⟨_, rfl, observe fun _ _ => ret ⟨rfl, rfl, rfl⟩⟩
  | unlockBuffer => exact ⟨_, rfl, ret ⟨rfl, rfl, rfl⟩⟩
  | getLockStatus => exact ⟨_, rfl, reply⟩
  | readReg reg =>
    refine ⟨_, rfl, ?_⟩
    split
    · exact raise
    · exact reply
  | startNewMessage src dst =>
    exact ⟨_, rfl, observe fun _ _ => observe fun _ _ =>
      write fun _ => write fun _ => write fun _ => write fun _ => write fun _ => write fun _ =>
        ret ⟨rfl, rfl, rfl⟩⟩
  | addAckRequest => exact ⟨_, rfl, ReturnsToPort.patchTypeByte _⟩
  | addAckStatus => exact ⟨_, rfl, ReturnsToPort.patchTypeByte _⟩
  | addNackStatus => exact ⟨_, rfl, ReturnsToPort.patchTypeByte _⟩
  | addData type n payload =>
    exact ⟨_, rfl, observe fun _ _ => observe fun _ _ =>
      write fun _ => write fun _ => write fun _ => observe fun _ _ => write fun _ => ret ⟨rfl, rfl, rfl⟩⟩
  | completeMessage =>
    exact ⟨_, rfl, observe fun _ _ => observe fun _ _ =>
      write fun _ => observe fun _ _ => write fun _ => observe fun _ _ => ret ⟨rfl, rfl, rfl⟩⟩
  | getSendPacket max =>
    refine ⟨_, rfl, observe fun _ _ => observe fun _ _ => observe fun frame hframe => reply ?_⟩
    obtain ⟨-, rfl⟩ := State.memBytes_eq_ok.mp hframe
    rw [State.length_bytes]
    omega
  | generateAckMessage src dst => exact ⟨_, rfl, ReturnsToPort.generate _ src dst⟩
  | generateNackMessage src dst => exact ⟨_, rfl, ReturnsToPort.generate _ src dst⟩
  | addReceivedBytes n bytes =>
    refine ⟨_, rfl, observe fun _ _ => observe fun _ _ => observe fun _ _ => write fun w => ?_⟩
    refine update (fun t h => ?_) fun u => update (fun _ => samePort_of_parseLength) fun v => ?_
    · have hdetect := samePort_of_detectHeader h
      exact ⟨hdetect.config, hdetect.pending, hdetect.responses⟩
    · exact ret (samePort_completeFrame v)
  | dataAvailable => exact ⟨_, rfl, observe fun _ _ => reply⟩
  | validateData => exact ⟨_, rfl, observe fun _ _ => reply⟩
  | getDataCount => exact ⟨_, rfl, validField⟩
  | getDataInfo k =>
    refine ⟨_, rfl, observe fun _ _ => observe fun _ _ => observe fun _ _ => observe fun item _ => ?_⟩
    cases item with
    | none => exact raise
    | some item => exact observe fun _ _ => reply (by simp [descriptor])
  | getData off type n max =>
    refine ⟨_, rfl, observe fun _ _ => observe fun _ _ => observe fun _ _ => observe fun payload hpayload =>
      reply ?_⟩
    obtain ⟨-, rfl⟩ := State.memBytes_eq_ok.mp hpayload
    rw [State.length_bytes]
    omega
  | getSourceId => exact ⟨_, rfl, validField⟩
  | getDestinationId => exact ⟨_, rfl, validField⟩
  | getAckStatus => exact ⟨_, rfl, validField⟩
  | getAckRequest => exact ⟨_, rfl, validField⟩
  | findHeaderPosition n bytes => exact ⟨_, rfl, reply⟩
  | getMessageBufferLen hpos n bytes => exact ⟨_, rfl, observe fun _ _ => reply⟩
  | crc16 n bytes => exact ⟨_, rfl, reply⟩

/-! One response per packet. -/

/-- `t` is `s` after one response: capacity and pending packets as before, one response more, whose data fits its length
field and which is bare when it is a failure (R95). -/
abbrev State.RespondedOnce (s t : State) : Prop :=
  t.config = s.config ∧ t.pending = s.pending ∧
    ∃ r : Response, t.responses = s.responses ++ [r] ∧ r.data.length ≤ 65535 ∧
      (r.status ≠ .ok → r.value = 0 ∧ r.data = [])

/-- Failing is one response. -/
theorem State.respondedOnce_fail (s : State) (code : ResultCode) : s.RespondedOnce (s.fail code) :=
  ⟨rfl, rfl, .failing code, rfl, Nat.zero_le _, fun _ => ⟨rfl, rfl⟩⟩

/-- A command that answers gives exactly one response (R8). -/
theorem respondedOnce_of_exec {i : Instr} {s t : State} (h : exec i s = .next t) : s.RespondedOnce t := by
  obtain ⟨c, hexec, hport⟩ := exec_eq_answer i s
  rw [hexec] at h
  obtain ⟨d, hd, rfl⟩ | ⟨code, -, rfl⟩ := State.answer_eq_next.mp h
  · obtain ⟨hsame, hdata⟩ := hport d hd
    refine ⟨hsame.config, hsame.pending, ⟨.ok, d.value, d.data⟩, ?_, hdata, fun hne => absurd rfl hne⟩
    rw [State.respond_responses, hsame.responses]
  · exact s.respondedOnce_fail code

/-- Settles O7: a decoded packet is answered by its command, any other by the one failure of R93. -/
theorem everyPacketGetsExactlyOneResponse : Obligations.EveryPacketGetsExactlyOneResponse := by
  intro s t packet rest hpending hstep
  cases hdecode : decode packet with
  | error why =>
    rw [step_of_decode_error hpending hdecode] at hstep
    cases hstep
    exact State.respondedOnce_fail { s with pending := rest } .invalidParameter
  | ok i =>
    rw [step_of_decode_ok hpending hdecode] at hstep
    exact respondedOnce_of_exec hstep

/-- Settles O5. -/
theorem stepRunsTheDecodedCommand : Obligations.StepRunsTheDecodedCommand :=
  fun _ _ _ _ hpending hdecode => step_of_decode_ok hpending hdecode

/-- Settles O6, by the idle step (log 4). -/
theorem stepWithNoPacketChangesNothing : Obligations.StepWithNoPacketChangesNothing :=
  fun _ hpending => step_of_pending_nil hpending

end Sys2Proof.Machine
end

section
/-! Block writes and the header scan: what block reads return after a block write, and the scan of a
string that grows. -/

namespace Sys2Proof.Machine

/-! The buffer. -/

/-- A block read beside the written block. -/
theorem Memory.readRange_writeAll_disjoint {m : Memory} (h : m.wf = true) {a x n : Nat} {bs : List Byte}
    (hd : x + n ≤ a ∨ a + bs.length ≤ x) : (m.writeAll a bs).readRange x n = m.readRange x n := by
  refine Memory.readRange_congr fun y _ _ => ?_
  rw [Memory.read_writeAll h, if_neg (by omega)]

/-- The written block read back. -/
theorem Memory.readRange_writeAll_self {m : Memory} (h : m.wf = true) (a : Nat) (bs : List Byte) :
    (m.writeAll a bs).readRange a bs.length = bs := by
  refine Memory.readRange_eq fun i hi => ?_
  rw [Memory.read_writeAll h, if_pos (by omega), Nat.add_sub_cancel_left]

theorem Memory.take_readRange (m : Memory) {a n k : Nat} (h : k ≤ n) :
    (m.readRange a n).take k = m.readRange a k := by
  obtain ⟨j, rfl⟩ := Nat.exists_eq_add_of_le h
  rw [Memory.readRange_add, List.take_left' (Memory.length_readRange ..)]

theorem Memory.drop_readRange (m : Memory) {a n k : Nat} (h : k ≤ n) :
    (m.readRange a n).drop k = m.readRange (a + k) (n - k) := by
  obtain ⟨j, rfl⟩ := Nat.exists_eq_add_of_le h
  rw [Memory.readRange_add, List.drop_left' (Memory.length_readRange ..), Nat.add_sub_cancel_left]

/-- A block written inside a block read replaces its part of it. -/
theorem Memory.readRange_writeAll_inside {m : Memory} (h : m.wf = true) {a n : Nat} {bs : List Byte}
    (hn : a + bs.length ≤ n) :
    (m.writeAll a bs).readRange 0 n =
      (m.readRange 0 n).take a ++ (bs ++ (m.readRange 0 n).drop (a + bs.length)) := by
  obtain ⟨k, rfl⟩ := Nat.exists_eq_add_of_le hn
  rw [Memory.take_readRange _ (by omega), Memory.drop_readRange _ hn, Nat.add_assoc, Memory.readRange_add,
    Memory.readRange_add, Nat.zero_add, Nat.zero_add, Memory.readRange_writeAll_self h,
    Memory.readRange_writeAll_disjoint h (by omega), Memory.readRange_writeAll_disjoint h (by omega)]
  congr 3
  omega

/-- A 2-byte field read back (R51). -/
theorem Memory.u16_writeAll_le16 {m : Memory} (h : m.wf = true) (a : Nat) (v : U16) :
    u16 ((m.writeAll a (le16 v)).read a) ((m.writeAll a (le16 v)).read (a + 1)) = v := by
  rw [Memory.read_writeAll h, Memory.read_writeAll h, if_pos (by simp), if_pos (by simp), Nat.sub_self,
    Nat.add_sub_cancel_left, u16_le16]

/-- A block write inside the buffer keeps it canonical. -/
theorem State.bufferOk.writeAll {s : State} (h : s.bufferOk) {a : Nat} {bs : List Byte}
    (hb : bs.length = 0 ∨ a + bs.length ≤ s.capacity) : (s.withBuf (s.buf.writeAll a bs)).bufferOk := by
  refine ⟨Memory.wf_writeAll h.1 a bs, ?_⟩
  obtain hnil | hle := hb
  · rw [List.eq_nil_of_length_eq_zero hnil]
    exact h.2
  · exact Memory.within_writeAll h.2 a bs hle

/-! The header scan. -/

theorem findMagic_cons (b : Byte) (rest : List Byte) :
    findMagic (b :: rest) = if (b :: rest).take 5 = magic then some 0 else (findMagic rest).map (· + 1) := rfl

/-- What the scan finds lies whole in the string and is the magic header (R160). -/
theorem findMagic_eq_some {bs : List Byte} {p : Nat} (h : findMagic bs = some p) :
    p + 5 ≤ bs.length ∧ (bs.drop p).take 5 = magic := by
  induction bs generalizing p with
  | nil => cases h
  | cons b rest ih =>
    rw [findMagic_cons] at h
    split at h
    next hm =>
      cases h
      have hlen := congrArg List.length hm
      rw [List.length_take, show magic.length = 5 from rfl] at hlen
      exact ⟨by omega, hm⟩
    next =>
      obtain ⟨q, hq, rfl⟩ := Option.map_eq_some_iff.mp h
      obtain ⟨hlen, hmagic⟩ := ih hq
      exact ⟨by rw [List.length_cons]; omega, hmagic⟩

/-- Bytes added behind do not move what the scan has found (R160). -/
theorem findMagic_append {bs : List Byte} {p : Nat} (h : findMagic bs = some p) (cs : List Byte) :
    findMagic (bs ++ cs) = some p := by
  induction bs generalizing p with
  | nil => cases h
  | cons b rest ih =>
    have hlen := (findMagic_eq_some h).1
    have htake : (b :: (rest ++ cs)).take 5 = (b :: rest).take 5 :=
      List.take_append_of_le_length (l₁ := b :: rest) (by omega)
    rw [findMagic_cons] at h
    rw [List.cons_append, findMagic_cons, htake]
    split at h
    next hm => rw [if_pos hm, h]
    next hm =>
      obtain ⟨q, hq, rfl⟩ := Option.map_eq_some_iff.mp h
      rw [if_neg hm, ih hq, Option.map_some]

end Sys2Proof.Machine
end

section
/-! What each command that writes can do, as one equation each: its checks in order, and the state it leaves as an
update of the state it was issued in. -/

namespace Sys2Proof.Machine

/-! The states that the commands leave. -/

/-- After `RESET_BUFFER` (R173). -/
def State.cleared (s : State) : State :=
  { s with
    cursor := 0, packetComplete := false, headerPresent := false, expectedLen := 0, lock := false
    lenValid := false, txStarted := false, hdrOff := 0, hdrSnap := .zero }

/-- After `START_NEW_MESSAGE` (R110): an empty build, its length field still 0. -/
def State.opened (s : State) (src dst : Byte) : State :=
  { s with
    buf := s.buf.writeAll 0 (fixedPart 0 src dst freshTypeByte 0)
    cursor := 12, headerPresent := false, packetComplete := false, lenValid := false
    expectedLen := 0, hdrOff := 0, hdrSnap := .zero, txStarted := true }

/-- The message type byte after an ack setter (R111 to R113). -/
def typeAfter (type : Byte) : Instr → Byte
  | .addAckRequest => setAckRequest type
  | .addAckStatus => setAckStatus ackCode type
  | .addNackStatus => setAckStatus nackCode type
  | _ => type

/-- After an ack setter: the type byte patched in place (R54). -/
def State.patched (s : State) (i : Instr) : State := s.withBuf (s.buf.writeAll 9 [typeAfter (s.byteAt 9) i])

/-- The buffer with one more item at `cursor` and its count field one up (R114). -/
def Memory.addItem (m : Memory) (cursor : Nat) (type : Byte) (n : U16) (payload : List Byte) : Memory :=
  let m' := m.writeAll cursor (type :: (le16 n ++ payload))
  m'.writeAll 10 (le16 (u16 (m'.read 10) (m'.read 11) + 1))

/-- After `ADD_DATA` (R114). -/
def State.withItem (s : State) (type : Byte) (n : U16) (payload : List Byte) : State :=
  { s with
    buf := s.buf.addItem s.cursor.toNat type n payload
    cursor := BitVec.ofNat 16 (s.cursor.toNat + 3 + n.toNat) }

/-- The buffer with the checksum of its first `n` bytes behind them (R78). -/
def Memory.sealed (m : Memory) (n : Nat) : Memory := m.writeAll n (le16 (crc16Of (m.readRange 0 n)))

/-- The buffer of a build that ends at `cursor`, its length field filled in and its checksum appended (R115). -/
def Memory.finish (m : Memory) (cursor : Nat) : Memory :=
  (m.writeAll 5 (le16 (BitVec.ofNat 16 (cursor + 2)))).sealed cursor

/-- After `COMPLETE_MESSAGE` (R115). -/
def State.finished (s : State) : State :=
  { s with
    buf := s.buf.finish s.cursor.toNat
    cursor := BitVec.ofNat 16 (s.cursor.toNat + 2), packetComplete := true, lock := true, headerPresent := true
    hdrOff := 0, hdrSnap := .ofBytes ((s.buf.finish s.cursor.toNat).readRange 0 5)
    expectedLen := BitVec.ofNat 16 (s.cursor.toNat + 2), lenValid := true }

/-- The buffer with a control frame at its start (R117): the fixed part and its checksum. -/
def Memory.controlFrame (m : Memory) (type src dst : Byte) : Memory :=
  (m.writeAll 0 (fixedPart 14 src dst type 0)).sealed 12

/-- After `GENERATE_*` (R117). -/
def State.generated (s : State) (type src dst : Byte) : State :=
  { s with
    buf := s.buf.controlFrame type src dst
    cursor := 14, txStarted := true, packetComplete := true, lock := true
    headerPresent := true, hdrOff := 0, hdrSnap := .ofBytes magic, expectedLen := 14, lenValid := true }

/-- After the first part of `ADD_RECEIVED_BYTES` (R130): the chunk appended, nothing parsed yet. -/
def State.appended (s : State) (n : U16) (bytes : List Byte) : State :=
  { s with
    buf := s.buf.writeAll s.cursor.toNat bytes
    cursor := BitVec.ofNat 16 (s.cursor.toNat + n.toNat) }

/-- The first parse step (R131): the header located in what has been received, if it was not and is there. -/
def State.withHeader (s : State) : State :=
  if s.headerPresent = true then s
  else
    match findMagic (s.bytes 0 s.cursor.toNat) with
    | none => s
    | some p =>
      { s with headerPresent := true, hdrOff := BitVec.ofNat 16 p, hdrSnap := .ofBytes (s.bytes p (p + 5)) }

/-- The second parse step (R135): the length field read, if it was not and has arrived. -/
def State.withLength (s : State) : State :=
  if s.headerPresent = true ∧ s.lenValid = false ∧ s.cursor.toNat ≥ s.hdrOff.toNat + 7 then
    { s with
      expectedLen := u16 (s.byteAt (s.hdrOff.toNat + 5)) (s.byteAt (s.hdrOff.toNat + 6)), lenValid := true }
  else s

/-- After `ADD_RECEIVED_BYTES` (R130). -/
def State.received (s : State) (n : U16) (bytes : List Byte) : State :=
  completeFrame (s.appended n bytes).withHeader.withLength

/-- What `BuilderCheck()` asks for (R119): an open build, unlocked. -/
abbrev State.buildOpen (s : State) : Prop := s.lock = false ∧ s.packetComplete = false ∧ s.txStarted = true

/-! Everything each of these commands can do. -/

/-- The part in front kept, the rest rewritten from what the part in front gave. -/
theorem Cmd.bind_congr {α β} {x : Cmd α} {f g : α → Cmd β} (h : ∀ a, x = .ok a → f a = g a) :
    (x >>= f) = (x >>= g) := by
  cases x with
  | error e => rfl
  | ok a => exact h a rfl

/-- An access to the offset `a`: there is such a byte, or the model stops (log 5). -/
def State.reach (s : State) (a : Nat) : Cmd Unit :=
  if a < s.capacity then .ok () else .error (.fault (.offsetBeyondCapacity a))

theorem State.reach_eq_ok {s : State} {a : Nat} {u : Unit} : s.reach a = .ok u ↔ a < s.capacity := by
  unfold State.reach
  split <;> simp [*]

theorem State.reach_ok {s : State} {a : Nat} (h : a < s.capacity) : s.reach a = .ok () := if_pos h

/-- A byte read reaches its offset. -/
theorem State.memRead1_bind {α} (s : State) (a : Nat) (f : Byte → Cmd α) :
    (s.memRead1 a >>= f) = (s.reach a >>= fun _ => f (s.byteAt a)) := by
  unfold State.memRead1 State.reach
  split <;> rfl

/-- A 2-byte read reaches its higher offset. -/
theorem State.memRead2_bind {α} (s : State) (a : Nat) (f : U16 → Cmd α) :
    (s.memRead2 a >>= f) = (s.reach (a + 1) >>= fun _ => f (u16 (s.byteAt a) (s.byteAt (a + 1)))) := by
  unfold State.memRead2 State.reach
  split <;> rfl

/-- A 2-byte write reaches its higher offset. -/
theorem State.memWrite2_bind {α} (s : State) (a : Nat) (v : U16) (f : State → Cmd α) :
    (s.memWrite2 a v >>= f) = (s.reach (a + 1) >>= fun _ => f (s.withBuf (s.buf.writeAll a (le16 v)))) := by
  unfold State.reach
  split
  next h => rw [State.memWrite2_ok h, Cmd.ok_bind, Cmd.ok_bind]
  next h => rw [State.memWrite2, State.memWriteBytes, if_neg (by rw [le16_length]; omega)]; rfl

/-- A block write right behind an offset of the buffer reaches its own highest offset. -/
theorem State.memWriteBytes_succ_bind {α} {s : State} {a : Nat} (ha : a < s.capacity) (bs : List Byte)
    (f : State → Cmd α) :
    (s.memWriteBytes (a + 1) bs >>= f) =
      (s.reach (a + bs.length) >>= fun _ => f (s.withBuf (s.buf.writeAll (a + 1) bs))) := by
  unfold State.reach
  split
  next h => rw [State.memWriteBytes_ok (.inr (by omega)), Cmd.ok_bind, Cmd.ok_bind]
  next h =>
    rw [State.memWriteBytes, if_neg (by omega), Nat.add_right_comm, Nat.add_sub_cancel]
    rfl

/-- A block write after another. -/
theorem State.withBuf_memWriteBytes {s : State} {m : Memory} {a : Nat} {bs : List Byte}
    (h : a + bs.length ≤ s.capacity) :
    (s.withBuf m).memWriteBytes a bs = .ok (s.withBuf (m.writeAll a bs)) := if_pos (.inr h)

/-- The six writes with which a frame begins are one write of its fixed part (R70). -/
theorem writeFixedPart_eq {α} {s : State} (h : 12 ≤ s.capacity) (len : Nat) (src dst type : Byte) (f : State → Cmd α) :
    (do let s ← s.memWriteBytes 0 magic
        let s ← s.memWrite2 lenOff (BitVec.ofNat 16 len)
        let s ← s.memWrite1 srcOff src
        let s ← s.memWrite1 dstOff dst
        let s ← s.memWrite1 typeOff type
        let s ← s.memWrite2 countOff 0
        f s) = f (s.withBuf (s.buf.writeAll 0 (fixedPart len src dst type 0))) := by
  have fits {a : Nat} {bs : List Byte} (hle : Nat.ble (a + bs.length) 12 = true) :
      a + bs.length ≤ s.capacity := Nat.le_trans (Nat.le_of_ble_eq_true hle) h
  simp only [State.memWrite1, State.memWrite2]
  rw [State.memWriteBytes_ok (.inr (fits rfl)), Cmd.ok_bind,
    State.withBuf_memWriteBytes (fits rfl), Cmd.ok_bind, State.withBuf_memWriteBytes (fits rfl),
    Cmd.ok_bind, State.withBuf_memWriteBytes (fits rfl), Cmd.ok_bind,
    State.withBuf_memWriteBytes (fits rfl), Cmd.ok_bind, State.withBuf_memWriteBytes (fits rfl),
    Cmd.ok_bind]
  rfl

/-- Everything `START_NEW_MESSAGE` can do (R110). -/
theorem exec_startNewMessage_eq (src dst : Byte) (s : State) :
    exec (.startNewMessage src dst) s = s.answer do
      lockCheck s
      raiseIf (s.capacity < 12) .notInitialized
      return { state := s.opened src dst } :=
  congrArg s.answer (Cmd.bind_congr fun _ _ => Cmd.bind_congr fun _ hcap =>
    writeFixedPart_eq (Nat.not_lt.mp (raiseIf_eq_ok.mp hcap)) 0 src dst freshTypeByte _)

/-- Everything the composite can do (R117). -/
theorem generate_eq (type src dst : Byte) (s : State) :
    generate type src dst s = do
      lockCheck s
      raiseIf (s.capacity < 12) .notInitialized
      raiseIf (s.capacity < 14) .noEnoughSpace
      return { state := s.generated type src dst, value := 14 } := by
  refine Cmd.bind_congr fun _ _ => Cmd.bind_congr fun _ h12 => Cmd.bind_congr fun _ h14 => ?_
  replace h12 : 12 ≤ s.capacity := Nat.not_lt.mp (raiseIf_eq_ok.mp h12)
  replace h14 : 14 ≤ s.capacity := Nat.not_lt.mp (raiseIf_eq_ok.mp h14)
  refine (writeFixedPart_eq h12 14 src dst type _).trans ?_
  rw [State.memBytes_ok (.inr (by exact h12)), Cmd.ok_bind, State.memWrite2, State.withBuf_memWriteBytes h14,
    Cmd.ok_bind]
  rfl

/-- Everything an ack setter can do (R111). -/
theorem patchTypeByte_eq (patch : Byte → Byte) (s : State) :
    patchTypeByte patch s = do
      builderCheck s
      s.reach 9
      return { state := s.withBuf (s.buf.writeAll 9 [patch (s.byteAt 9)]) } := by
  refine Cmd.bind_congr fun _ _ => (s.memRead1_bind 9 _).trans (Cmd.bind_congr fun _ hreach => ?_)
  rw [State.memWrite1_ok (State.reach_eq_ok.mp hreach), Cmd.ok_bind]

/-- Everything `ADD_DATA` can do (R114); the payload leaves the buffer, or the count field lies outside it, only in
states that no run reaches (R56). -/
theorem exec_addData_eq (type : Byte) (n : U16) (payload : List Byte) (s : State) :
    exec (.addData type n payload) s = s.answer do
      builderCheck s
      raiseIf (s.cursor.toNat + 3 + n.toNat > s.capacity) .noEnoughSpace
      s.reach (s.cursor.toNat + 2 + payload.length)
      s.reach 11
      return { state := s.withItem type n payload } := by
  refine congrArg s.answer (Cmd.bind_congr fun _ _ => Cmd.bind_congr fun _ hspace => ?_)
  have hheader : s.cursor.toNat + 3 ≤ s.capacity :=
    Nat.le_trans (Nat.le_add_right ..) (Nat.not_lt.mp (raiseIf_eq_ok.mp hspace))
  simp only [State.memWrite1, State.memWrite2]
  rw [State.memWriteBytes_ok (.inr (by exact Nat.le_trans (by simp) hheader)), Cmd.ok_bind,
    State.withBuf_memWriteBytes hheader, Cmd.ok_bind]
  refine (State.memWriteBytes_succ_bind (by exact hheader) payload _).trans (Cmd.bind_congr fun _ _ =>
    (State.memRead2_bind _ _ _).trans (Cmd.bind_congr fun _ hcount => ?_))
  rw [State.withBuf_withBuf, State.withBuf_memWriteBytes (State.reach_eq_ok.mp hcount),
    Cmd.ok_bind]
  rfl

/-- Everything `COMPLETE_MESSAGE` can do (R115); the length field lies outside the buffer only in states that no run
reaches (R56). -/
theorem exec_completeMessage_eq (s : State) :
    exec .completeMessage s = s.answer do
      builderCheck s
      raiseIf (s.cursor.toNat + 2 > s.capacity) .noEnoughSpace
      s.reach 6
      return { state := s.finished, value := BitVec.ofNat 16 (s.cursor.toNat + 2) } := by
  refine congrArg s.answer (Cmd.bind_congr fun _ _ => Cmd.bind_congr fun _ hspace =>
    (s.memWrite2_bind 5 _ _).trans (Cmd.bind_congr fun _ hreach => ?_))
  replace hspace := Nat.not_lt.mp (raiseIf_eq_ok.mp hspace)
  replace hreach := State.reach_eq_ok.mp hreach
  rw [State.memBytes_ok (.inr (by exact Nat.le_of_add_right_le hspace)), Cmd.ok_bind, State.memWrite2,
    State.withBuf_memWriteBytes hspace, Cmd.ok_bind,
    State.memBytes_ok (.inr (by exact Nat.le_of_lt (Nat.lt_of_succ_lt hreach))), Cmd.ok_bind]
  rfl

/-- The first parse step while the cursor lies in the buffer (R131). -/
theorem detectHeader_eq {s : State} (h : s.cursorInBuffer) : detectHeader s = .ok s.withHeader := by
  unfold detectHeader State.withHeader
  split
  · rfl
  rw [State.memBytes_ok (.inr h), Cmd.ok_bind]
  cases hp : findMagic (s.bytes 0 s.cursor.toNat) with
  | none => rfl
  | some p =>
    have hlen := (findMagic_eq_some hp).1
    rw [State.length_bytes] at hlen
    show (s.memBytes p (p + 5) >>= _) = _
    rw [State.memBytes_ok (.inr (by omega)), Cmd.ok_bind]

/-- The second parse step while the cursor lies in the buffer (R135). -/
theorem parseLength_eq {s : State} (h : s.cursorInBuffer) : parseLength s = .ok s.withLength := by
  unfold parseLength State.withLength
  split
  next hlen =>
    obtain ⟨-, -, hcursor⟩ := hlen
    rw [State.memRead2_ok (by simp only [lenOff]; omega), Cmd.ok_bind]
  next => rfl

/-! The parse steps, by what they leave unchanged. -/

/-- `t` is `s` parsed further (R130): buffer, cursor and the registers of the transmit path as before; a header located,
a length read and a frame completed are not taken back. -/
structure State.ParsedFrom (t s : State) : Prop where
  config : t.config = s.config
  buf : t.buf = s.buf
  cursor : t.cursor = s.cursor
  lock : t.lock = s.lock
  txStarted : t.txStarted = s.txStarted
  header : s.headerPresent = true → t.headerPresent = true ∧ t.hdrOff = s.hdrOff ∧ t.hdrSnap = s.hdrSnap
  length : s.lenValid = true → t.lenValid = true ∧ t.expectedLen = s.expectedLen
  complete : s.packetComplete = true → t.packetComplete = true

theorem State.ParsedFrom.refl (s : State) : s.ParsedFrom s :=
  ⟨rfl, rfl, rfl, rfl, rfl, fun h => ⟨h, rfl, rfl⟩, fun h => ⟨h, rfl⟩, id⟩

theorem State.ParsedFrom.trans {s t u : State} (hut : u.ParsedFrom t) (hts : t.ParsedFrom s) : u.ParsedFrom s where
  config := hut.config.trans hts.config
  buf := hut.buf.trans hts.buf
  cursor := hut.cursor.trans hts.cursor
  lock := hut.lock.trans hts.lock
  txStarted := hut.txStarted.trans hts.txStarted
  header h := by
    obtain ⟨ht, hoff, hsnap⟩ := hts.header h
    obtain ⟨hu, hoff', hsnap'⟩ := hut.header ht
    exact ⟨hu, hoff'.trans hoff, hsnap'.trans hsnap⟩
  length h := by
    obtain ⟨ht, hlen⟩ := hts.length h
    obtain ⟨hu, hlen'⟩ := hut.length ht
    exact ⟨hu, hlen'.trans hlen⟩
  complete h := hut.complete (hts.complete h)

theorem State.ParsedFrom.cursorInBuffer {s t : State} (h : t.ParsedFrom s) (hs : s.cursorInBuffer) :
    t.cursorInBuffer := by
  simpa only [State.cursorInBuffer, State.capacity, h.config, h.cursor] using hs

theorem State.withHeader_parsedFrom (s : State) : s.withHeader.ParsedFrom s := by
  unfold State.withHeader
  split
  next => exact .refl s
  next habsent =>
    split
    · exact .refl s
    · exact { State.ParsedFrom.refl s with header := fun h => absurd h habsent }

theorem State.withLength_parsedFrom (s : State) : s.withLength.ParsedFrom s := by
  unfold State.withLength
  split
  next hread =>
    obtain ⟨-, hunknown, -⟩ := hread
    exact { State.ParsedFrom.refl s with length := fun h => absurd (hunknown.symm.trans h) Bool.false_ne_true }
  next => exact .refl s

theorem completeFrame_parsedFrom (s : State) : (completeFrame s).ParsedFrom s := by
  unfold completeFrame
  split
  · exact { State.ParsedFrom.refl s with complete := fun _ => rfl }
  · exact .refl s

theorem State.received_parsedFrom (s : State) (n : U16) (bytes : List Byte) :
    (s.received n bytes).ParsedFrom (s.appended n bytes) :=
  (completeFrame_parsedFrom _).trans ((State.withLength_parsedFrom _).trans (State.withHeader_parsedFrom _))

/-- Everything `ADD_RECEIVED_BYTES` can do (R130); the chunk leaves the buffer only where it is longer than its length
operand (log 9). -/
theorem exec_addReceivedBytes_eq (n : U16) (bytes : List Byte) (s : State) :
    exec (.addReceivedBytes n bytes) s = s.answer do
      lockCheck s
      raiseIf (s.txStarted = true) .invalidState
      raiseIf (s.cursor.toNat + n.toNat > s.capacity) .noEnoughSpace
      let _ ← s.memWriteBytes s.cursor.toNat bytes
      return { state := s.received n bytes } := by
  refine congrArg s.answer (Cmd.bind_congr fun _ _ => Cmd.bind_congr fun _ _ => Cmd.bind_congr fun _ hspace =>
    Cmd.bind_congr fun w hw => ?_)
  replace hspace := Nat.not_lt.mp (raiseIf_eq_ok.mp hspace)
  obtain ⟨-, rfl⟩ := State.memWriteBytes_eq_ok.mp hw
  have hcursor : (s.appended n bytes).cursorInBuffer := Nat.le_trans (Nat.mod_le ..) hspace
  have hcursor' : (s.appended n bytes).withHeader.cursorInBuffer :=
    (s.appended n bytes).withHeader_parsedFrom.cursorInBuffer hcursor
  show detectHeader (s.appended n bytes) >>= _ = _
  rw [detectHeader_eq hcursor, Cmd.ok_bind, parseLength_eq hcursor', Cmd.ok_bind]
  rfl

end Sys2Proof.Machine
end

section
/-! The effect of a completed command, said once for all of them: the one inversion of `exec` that the statements about
every command go through. -/

namespace Sys2Proof.Machine

/-- `Effect i s u`: command `i`, issued in state `s` and completed, has written `u` (before its response). -/
inductive Effect : Instr → State → State → Prop
  | query {i : Instr} {s : State} : isQuery i = true → Effect i s s
  | reset {s : State} : Effect .resetBuffer s s.cleared
  | lock {s : State} : s.lock = false → Effect .lockBuffer s { s with lock := true }
  | unlock {s : State} : Effect .unlockBuffer s { s with lock := false }
  | start {s : State} {src dst : Byte} :
    s.lock = false → 12 ≤ s.capacity → Effect (.startNewMessage src dst) s (s.opened src dst)
  | patch {i : Instr} {s : State} : isAckSetter i = true → s.buildOpen → 9 < s.capacity → Effect i s (s.patched i)
  | addData {s : State} {type : Byte} {n : U16} {payload : List Byte} :
    s.buildOpen → s.cursor.toNat + 3 + n.toNat ≤ s.capacity → s.cursor.toNat + 3 + payload.length ≤ s.capacity →
      11 < s.capacity → Effect (.addData type n payload) s (s.withItem type n payload)
  | complete {s : State} :
    s.buildOpen → s.cursor.toNat + 2 ≤ s.capacity → 7 ≤ s.capacity → Effect .completeMessage s s.finished
  | generateAck {s : State} {src dst : Byte} :
    s.lock = false → 14 ≤ s.capacity → Effect (.generateAckMessage src dst) s (s.generated 0x11 src dst)
  | generateNack {s : State} {src dst : Byte} :
    s.lock = false → 14 ≤ s.capacity → Effect (.generateNackMessage src dst) s (s.generated 0x12 src dst)
  | receive {s : State} {n : U16} {bytes : List Byte} :
    s.lock = false → s.txStarted = false → s.cursor.toNat + n.toNat ≤ s.capacity →
      s.cursor.toNat + bytes.length ≤ s.capacity → Effect (.addReceivedBytes n bytes) s (s.received n bytes)

/-! One rule per shape of a command's pseudocode. -/

/-- Whenever the pseudocode `c` returns, the state it has written has `P`. -/
def Leaves (c : Cmd Done) (P : State → Prop) : Prop := ∀ d, c = .ok d → P d.state

namespace Leaves
variable {P : State → Prop} {s : State}

/-- `return`. -/
theorem ret {d : Done} (h : P d.state) : Leaves (.ok d) P := by
  intro d' hd
  cases hd
  exact h

/-- `raise`. -/
theorem raise {e : Stop} : Leaves (.error e) P := by
  intro d h
  cases h

/-- Anything in front that gives a value. -/
theorem observe {α} {x : Cmd α} {f : α → Cmd Done} (hf : ∀ a, x = .ok a → Leaves (f a) P) : Leaves (x >>= f) P := by
  intro d h
  obtain ⟨a, ha, hd⟩ := Cmd.bind_eq_ok.mp h
  exact hf a ha d hd

/-- A check in front. -/
theorem check {p : Prop} [Decidable p] {code : ResultCode} {f : Unit → Cmd Done} (hf : ¬p → Leaves (f ()) P) :
    Leaves (raiseIf p code >>= f) P :=
  observe fun _ h => hf (raiseIf_eq_ok.mp h)

/-- An access in front. -/
theorem reach {a : Nat} {f : Unit → Cmd Done} (hf : a < s.capacity → Leaves (f ()) P) :
    Leaves (s.reach a >>= f) P :=
  observe fun _ h => hf (State.reach_eq_ok.mp h)

/-- The lock check in front (R203). -/
theorem unlocked {f : Unit → Cmd Done} (hf : s.lock = false → Leaves (f ()) P) : Leaves (lockCheck s >>= f) P :=
  check fun h => hf (Bool.eq_false_iff.mpr h)

/-- The builder check in front (R119). -/
theorem built {f : Unit → Cmd Done} (hf : s.buildOpen → Leaves (f ()) P) : Leaves (builderCheck s >>= f) P :=
  observe fun _ h => hf (builderCheck_eq_ok.mp h)

theorem patchTypeByte {i : Instr} {patch : Byte → Byte} (hi : isAckSetter i = true)
    (hpatch : ∀ type, patch type = typeAfter type i) : Leaves (Machine.patchTypeByte patch s) (Effect i s) := by
  rw [patchTypeByte_eq, hpatch]
  exact built fun hopen => reach fun hcap => ret (.patch hi hopen hcap)

theorem generate {type src dst : Byte} (hP : s.lock = false → 14 ≤ s.capacity → P (s.generated type src dst)) :
    Leaves (Machine.generate type src dst s) P := by
  rw [generate_eq]
  exact unlocked fun hlock => check fun _ => check fun hcap => ret (hP hlock (Nat.not_lt.mp hcap))

end Leaves

open Leaves in
/-- Every command ends in `State.answer`, on pseudocode that leaves a state of `Effect`. -/
theorem exec_leaves_effect (i : Instr) (s : State) : ∃ c, exec i s = s.answer c ∧ Leaves c (Effect i s) := by
  cases i with
  | resetBuffer => exact ⟨_, rfl, ret .reset⟩
  | lockBuffer => exact ⟨_, rfl, unlocked fun hlock => ret (.lock hlock)⟩
  | unlockBuffer => exact ⟨_, rfl, ret .unlock⟩
  | getLockStatus => exact ⟨_, rfl, ret (.query rfl)⟩
  | readReg reg =>
    refine ⟨_, rfl, ?_⟩
    split
    · exact raise
    · exact ret (.query rfl)
  | startNewMessage src dst =>
    exact ⟨_, exec_startNewMessage_eq src dst s, unlocked fun hlock => check fun hcap =>
      ret (.start hlock (Nat.not_lt.mp hcap))⟩
  | addAckRequest => exact ⟨_, rfl, Leaves.patchTypeByte rfl fun _ => rfl⟩
  | addAckStatus => exact ⟨_, rfl, Leaves.patchTypeByte rfl fun _ => rfl⟩
  | addNackStatus => exact ⟨_, rfl, Leaves.patchTypeByte rfl fun _ => rfl⟩
  | addData type n payload =>
    exact ⟨_, exec_addData_eq type n payload s, built fun hopen => check fun hspace =>
      reach fun hpayload => reach fun hcount => ret (.addData hopen (Nat.not_lt.mp hspace) (by omega) hcount)⟩
  | completeMessage =>
    exact ⟨_, exec_completeMessage_eq s, built fun hopen => check fun hspace => reach fun hcap =>
      ret (.complete hopen (Nat.not_lt.mp hspace) hcap)⟩
  | getSendPacket max => exact ⟨_, rfl, check fun _ => check fun _ => observe fun _ _ => ret (.query rfl)⟩
  | generateAckMessage src dst => exact ⟨_, rfl, Leaves.generate .generateAck⟩
  | generateNackMessage src dst => exact ⟨_, rfl, Leaves.generate .generateNack⟩
  | addReceivedBytes n bytes =>
    refine ⟨_, exec_addReceivedBytes_eq n bytes s, unlocked fun hlock => check fun htx => check fun hspace =>
      observe fun w hw => ret (.receive hlock (Bool.eq_false_iff.mpr htx) (Nat.not_lt.mp hspace) ?_)⟩
    obtain ⟨hempty | hbytes, -⟩ := State.memWriteBytes_eq_ok.mp hw
    · omega
    · exact hbytes
  | dataAvailable => exact ⟨_, rfl, observe fun _ _ => ret (.query rfl)⟩
  | validateData => exact ⟨_, rfl, observe fun _ _ => ret (.query rfl)⟩
  | getDataCount => exact ⟨_, rfl, observe fun _ _ => observe fun _ _ => ret (.query rfl)⟩
  | getDataInfo k =>
    refine ⟨_, rfl, observe fun _ _ => observe fun _ _ => observe fun _ _ => observe fun item _ => ?_⟩
    cases item with
    | none => exact raise
    | some item => exact observe fun _ _ => ret (.query rfl)
  | getData off type n max =>
    exact ⟨_, rfl, observe fun _ _ => check fun _ => check fun _ => observe fun _ _ => ret (.query rfl)⟩
  | getSourceId => exact ⟨_, rfl, observe fun _ _ => observe fun _ _ => ret (.query rfl)⟩
  | getDestinationId => exact ⟨_, rfl, observe fun _ _ => observe fun _ _ => ret (.query rfl)⟩
  | getAckStatus => exact ⟨_, rfl, observe fun _ _ => observe fun _ _ => ret (.query rfl)⟩
  | getAckRequest => exact ⟨_, rfl, observe fun _ _ => observe fun _ _ => ret (.query rfl)⟩
  | findHeaderPosition n bytes => exact ⟨_, rfl, ret (.query rfl)⟩
  | getMessageBufferLen hpos n bytes => exact ⟨_, rfl, check fun _ => ret (.query rfl)⟩
  | crc16 n bytes => exact ⟨_, rfl, ret (.query rfl)⟩

/-- A command that answers has failed and changed nothing, or has completed with its effect. -/
theorem effect_of_exec {i : Instr} {s t : State} (h : exec i s = .next t) :
    (∃ code, t = s.fail code) ∨ ∃ u value data, Effect i s u ∧ t = u.respond ⟨.ok, value, data⟩ := by
  obtain ⟨c, hexec, heffect⟩ := exec_leaves_effect i s
  rw [hexec] at h
  obtain ⟨d, hd, rfl⟩ | ⟨code, -, rfl⟩ := State.answer_eq_next.mp h
  · exact .inr ⟨d.state, d.value, d.data, heffect d hd, rfl⟩
  · exact .inl ⟨code, rfl⟩

end Sys2Proof.Machine
end

section
/-! The statements that follow from the effect of a command, or from the flags, alone. -/

namespace Sys2Proof.Machine

/-- Settles O16: the effect of each command names all that it writes; what receiving keeps is `State.received_frame`. -/
theorem stateChangesOnlyUnderTheListedCommands : Obligations.StateChangesOnlyUnderTheListedCommands := by
  intro i s t h
  obtain ⟨hconfig, hpending, -⟩ := respondedOnce_of_exec h
  refine ⟨hconfig, hpending, ?_⟩
  obtain ⟨code, rfl⟩ | ⟨u, value, data, heffect, rfl⟩ := effect_of_exec h
  · simp +contextual [State.fail_eq_respond]
  cases heffect with
  | query => simp +contextual
  | reset => simp +contextual [State.cleared, isReset]
  | lock => simp +contextual
  | unlock => simp +contextual
  | start => simp +contextual [State.opened, isStart]
  | patch hsetter => simp +contextual [State.patched, hsetter]
  | addData => simp +contextual [State.withItem, isAddData]
  | complete => simp +contextual [State.finished, isComplete]
  | generateAck => simp +contextual [State.generated, isGenerate]
  | generateNack => simp +contextual [State.generated, isGenerate]
  | @receive _ n bytes =>
    have hparsed := s.received_parsedFrom n bytes
    have hlock : (s.received n bytes).lock = s.lock := hparsed.lock
    have htx : (s.received n bytes).txStarted = s.txStarted := hparsed.txStarted
    have hheader (h : s.headerPresent = true) := (hparsed.header h).1
    have hlength (h : s.lenValid = true) := (hparsed.length h).1
    have hcomplete (h : s.packetComplete = true) := hparsed.complete h
    simp +contextual [isReceive, hlock, htx, hheader, hlength, hcomplete]

/-- Settles O55: the answers of the two scans and the checksum are computed from their operands alone. -/
theorem statelessCommandsIgnoreTheState : Obligations.StatelessCommandsIgnoreTheState := by
  intro i s s' hi
  cases i with
  | findHeaderPosition n bytes => exact ⟨_, rfl, rfl⟩
  | crc16 n bytes => exact ⟨_, rfl, rfl⟩
  | getMessageBufferLen hpos n bytes =>
    simp only [exec, execGetMessageBufferLen]
    by_cases hbound : hpos.toNat + 7 > n.toNat
    · rw [raiseIf_pos hbound]
      exact ⟨_, rfl, rfl⟩
    · rw [raiseIf_neg hbound]
      exact ⟨_, rfl, rfl⟩
  | _ => cases hi

/-- Settles O11: under V2, V3 and V6 the flags can stand in six ways, one for each row. -/
theorem exactlyOnePhaseRowApplies : Obligations.ExactlyOnePhaseRowApplies := by
  intro s hInv
  cases htx : s.txStarted with
  | true => cases hcomplete : s.packetComplete <;> simp [State.phase, htx, hcomplete]
  | false =>
    cases hcomplete : s.packetComplete with
    | true =>
      have hlength := (hInv.completeHasFrame hcomplete).1
      simp [State.phase, htx, hcomplete, hlength, hInv.lengthHasHeader hlength]
    | false =>
      cases hlength : s.lenValid with
      | true => simp [State.phase, htx, hcomplete, hlength, hInv.lengthHasHeader hlength]
      | false => cases hheader : s.headerPresent <;> simp [State.phase, htx, hcomplete, hlength, hheader]

end Sys2Proof.Machine
end

section
/-! The invariants of the unit (R41): every effect keeps them, hence every command and every step does; and what a
complete frame keeps (V8). -/

namespace Sys2Proof.Machine

/-! The checksum behind a frame. -/

/-- Sealing leaves the bytes before the checksum as they were. -/
theorem Memory.readRange_sealed {m : Memory} (h : m.wf = true) {n x k : Nat} (hle : x + k ≤ n) :
    (m.sealed n).readRange x k = m.readRange x k :=
  Memory.readRange_writeAll_disjoint h (.inl hle)

theorem Memory.read_sealed {m : Memory} (h : m.wf = true) {n x : Nat} (hlt : x < n) :
    (m.sealed n).read x = m.read x := by
  rw [Memory.sealed, Memory.read_writeAll h, if_neg (by omega)]

/-- The two bytes behind a sealed buffer's first `n` are their checksum. -/
theorem Memory.u16_sealed {m : Memory} (h : m.wf = true) (n : Nat) :
    u16 ((m.sealed n).read n) ((m.sealed n).read (n + 1)) = crc16Of ((m.sealed n).readRange 0 n) := by
  rw [Memory.readRange_sealed h (by omega)]
  exact Memory.u16_writeAll_le16 h n _

/-! The states a build and a reset leave. -/

/-- A unit with no flag of the frame set and nothing in the buffer has the invariants. -/
theorem State.inv_of_empty {s : State} (hbuf : s.bufferOk) (hcursor : s.cursor = 0) (hheader : s.headerPresent = false)
    (hlength : s.lenValid = false) (hcomplete : s.packetComplete = false) (htx : s.txStarted = false) : s.Inv :=
  ⟨hbuf, by rw [State.cursorInBuffer, hcursor]; exact Nat.zero_le _, (nomatch hlength.symm.trans ·),
    (nomatch hcomplete.symm.trans ·), (nomatch hheader.symm.trans ·), (nomatch hlength.symm.trans ·),
    ⟨(nomatch htx.symm.trans ·), (nomatch htx.symm.trans ·)⟩,
    fun _ => ⟨fun _ => by rw [hcursor]; rfl, (nomatch hheader.symm.trans ·)⟩, (nomatch hcomplete.symm.trans ·)⟩

/-- `s` is an open build behind a magic header: what V6 asks for, and V1 and the canonical buffer. -/
structure State.BuildInProgress (s : State) : Prop where
  bufferOk : s.bufferOk
  cursorInBuffer : s.cursorInBuffer
  txStarted : s.txStarted = true
  headerPresent : s.headerPresent = false
  lenValid : s.lenValid = false
  packetComplete : s.packetComplete = false
  fixedPart : 12 ≤ s.cursor.toNat
  hdrOff : s.hdrOff = 0
  magic : s.bytes 0 5 = magic

/-- An open build has the invariants: V6 is all they ask for (R41). -/
theorem State.BuildInProgress.inv {s : State} (h : s.BuildInProgress) : s.Inv :=
  ⟨h.bufferOk, h.cursorInBuffer, (nomatch h.lenValid.symm.trans ·), (nomatch h.packetComplete.symm.trans ·),
    (nomatch h.headerPresent.symm.trans ·), (nomatch h.lenValid.symm.trans ·),
    ⟨fun _ => ⟨Nat.le_trans h.fixedPart h.cursorInBuffer, h.fixedPart, h.hdrOff, h.magic⟩,
      fun _ _ => ⟨h.headerPresent, h.lenValid⟩⟩,
    (nomatch h.txStarted.symm.trans ·), (nomatch h.packetComplete.symm.trans ·)⟩

/-- In a state with the invariants the builder check passes on an open build alone (V6). -/
theorem State.Inv.buildInProgress {s : State} (h : s.Inv) (hopen : s.buildOpen) : s.BuildInProgress := by
  obtain ⟨-, hcomplete, htx⟩ := hopen
  obtain ⟨-, hcursor, hoff, hmagic⟩ := h.buildIsStarted.1 htx
  obtain ⟨hheader, hlength⟩ := h.buildIsStarted.2 htx hcomplete
  exact ⟨h.bufferOk, h.cursorInBuffer, htx, hheader, hlength, hcomplete, hcursor, hoff, hmagic⟩

/-- A start leaves an open build. -/
theorem State.buildInProgress_opened {s : State} (h : s.bufferOk) (hcap : 12 ≤ s.capacity) (src dst : Byte) :
    (s.opened src dst).BuildInProgress where
  bufferOk := h.writeAll (.inr hcap)
  cursorInBuffer := hcap
  txStarted := rfl
  headerPresent := rfl
  lenValid := rfl
  packetComplete := rfl
  fixedPart := Nat.le_refl 12
  hdrOff := rfl
  magic := by
    show (s.buf.writeAll 0 _).readRange 0 5 = _
    rw [← Memory.take_readRange _ (show 5 ≤ 12 by decide)]
    exact congrArg (List.take 5) (Memory.readRange_writeAll_self h.1 0 (fixedPart 0 src dst freshTypeByte 0))

/-- An ack setter leaves the build open. -/
theorem State.BuildInProgress.patched {s : State} (h : s.BuildInProgress) (i : Instr) :
    (s.patched i).BuildInProgress where
  bufferOk := h.bufferOk.writeAll
    (.inr (Nat.le_trans (Nat.le_trans (show 10 ≤ 12 by decide) h.fixedPart) h.cursorInBuffer))
  cursorInBuffer := h.cursorInBuffer
  txStarted := h.txStarted
  headerPresent := h.headerPresent
  lenValid := h.lenValid
  packetComplete := h.packetComplete
  fixedPart := h.fixedPart
  hdrOff := h.hdrOff
  magic := (Memory.readRange_writeAll_disjoint h.bufferOk.1 (.inl (by decide))).trans h.magic

/-- An item leaves the build open. -/
theorem State.BuildInProgress.withItem {s : State} (h : s.BuildInProgress) {type : Byte} {n : U16}
    {payload : List Byte} (hspace : s.cursor.toNat + 3 + n.toNat ≤ s.capacity)
    (hpayload : s.cursor.toNat + 3 + payload.length ≤ s.capacity) : (s.withItem type n payload).BuildInProgress where
  bufferOk := by
    have hitem : (s.withBuf (s.buf.writeAll s.cursor.toNat (type :: (le16 n ++ payload)))).bufferOk :=
      h.bufferOk.writeAll (.inr (by simp only [List.length_cons, List.length_append, le16_length]; omega))
    exact hitem.writeAll (.inr (Nat.le_trans h.fixedPart h.cursorInBuffer))
  cursorInBuffer := Nat.le_trans (Nat.mod_le ..) hspace
  txStarted := h.txStarted
  headerPresent := h.headerPresent
  lenValid := h.lenValid
  packetComplete := h.packetComplete
  fixedPart := by
    have hcursor := h.fixedPart
    have hcap := s.capacity_lt
    simp only [State.withItem, BitVec.toNat_ofNat]
    omega
  hdrOff := h.hdrOff
  magic := by
    have hcursor := h.fixedPart
    have hwf := h.bufferOk.1
    refine (Memory.readRange_writeAll_disjoint (Memory.wf_writeAll hwf _ _) (.inl (by decide))).trans ?_
    exact (Memory.readRange_writeAll_disjoint hwf (.inl (by omega))).trans h.magic

/-- `s` is a completed build: a frame at offset 0 that ends at the cursor, the first `n` bytes of `m` and their
checksum, its header and length in the registers (R115, R117). -/
structure State.BuildCompleted (s : State) (m : Memory) (n : Nat) : Prop where
  wf : m.wf = true
  buf : s.buf = m.sealed n
  bufferOk : s.bufferOk
  cursor : s.cursor.toNat = n + 2
  cursorInBuffer : s.cursorInBuffer
  fixedPart : 12 ≤ n
  txStarted : s.txStarted = true
  headerPresent : s.headerPresent = true
  lenValid : s.lenValid = true
  packetComplete : s.packetComplete = true
  hdrOff : s.hdrOff = 0
  expectedLen : s.expectedLen = s.cursor
  hdrSnap : s.hdrSnap = .ofBytes magic
  magic : m.readRange 0 5 = magic
  lengthField : u16 (m.read 5) (m.read 6) = s.cursor

namespace State.BuildCompleted
variable {s : State} {m : Memory} {n : Nat} (h : s.BuildCompleted m n)
include h

theorem bytes_magic : s.bytes 0 5 = Machine.magic := by
  have hn := h.fixedPart
  rw [State.bytes, h.buf, Memory.readRange_sealed h.wf (by omega)]
  exact h.magic

/-- The trailer of a completed build is its checksum: the frame is valid (V11). -/
theorem frameValid : s.frameValid := by
  have hn := h.fixedPart
  have hoff : s.hdrOff.toNat = 0 := by rw [h.hdrOff]; rfl
  have hlen : s.expectedLen.toNat = n + 2 := by rw [h.expectedLen, h.cursor]
  rw [State.frameValid, hoff, hlen, Nat.zero_add, Nat.zero_add, Nat.add_sub_cancel]
  refine ⟨h.packetComplete, by omega, ?_, h.bytes_magic⟩
  simp only [State.byteAt, State.bytes, h.buf]
  exact Memory.u16_sealed h.wf n

/-- A completed build has the invariants. -/
theorem inv : s.Inv := by
  have hn := h.fixedPart
  have hcursor := h.cursor
  have hoff : s.hdrOff.toNat = 0 := by rw [h.hdrOff]; rfl
  have hlen : s.expectedLen.toNat = s.cursor.toNat := by rw [h.expectedLen]
  refine ⟨h.bufferOk, h.cursorInBuffer, fun _ => h.headerPresent, fun _ => ⟨h.lenValid, by omega⟩,
    fun _ => ⟨by omega, ?_, ?_⟩, fun _ => ⟨by omega, ?_⟩, ⟨fun _ => ⟨?_, by omega, h.hdrOff, h.bytes_magic⟩, ?_⟩,
    (nomatch h.txStarted.symm.trans ·), fun _ _ => ?_⟩
  · rw [hoff]
    exact h.bytes_magic
  · rw [h.hdrSnap]
    rfl
  · rw [hoff, h.expectedLen, State.byteAt, State.byteAt, h.buf, Memory.read_sealed h.wf (by omega),
      Memory.read_sealed h.wf (by omega)]
    exact h.lengthField.symm
  · exact Nat.le_trans (by omega) h.cursorInBuffer
  · exact fun _ hopen => nomatch h.packetComplete.symm.trans hopen
  · refine (validate_eq_ok_iff s fun _ => ?_).mpr h.frameValid
    rw [hoff, hlen, Nat.zero_add]
    exact h.cursorInBuffer

end State.BuildCompleted

/-- `COMPLETE_MESSAGE` leaves a completed build. -/
theorem State.BuildInProgress.finished {s : State} (h : s.BuildInProgress)
    (hspace : s.cursor.toNat + 2 ≤ s.capacity) :
    s.finished.BuildCompleted (s.buf.writeAll 5 (le16 (BitVec.ofNat 16 (s.cursor.toNat + 2)))) s.cursor.toNat := by
  have hcursor := h.fixedPart
  have hcap := s.capacity_lt
  have hwf : (s.buf.writeAll 5 (le16 (BitVec.ofNat 16 (s.cursor.toNat + 2)))).wf = true :=
    Memory.wf_writeAll h.bufferOk.1 ..
  have hmagic : (s.buf.writeAll 5 (le16 (BitVec.ofNat 16 (s.cursor.toNat + 2)))).readRange 0 5 = Machine.magic :=
    (Memory.readRange_writeAll_disjoint h.bufferOk.1 (.inl (by decide))).trans h.magic
  have hlength : (s.withBuf (s.buf.writeAll 5 (le16 (BitVec.ofNat 16 (s.cursor.toNat + 2))))).bufferOk :=
    h.bufferOk.writeAll (.inr (by rw [le16_length]; omega))
  exact {
    wf := hwf
    buf := rfl
    bufferOk := hlength.writeAll (.inr hspace)
    cursor := Nat.mod_eq_of_lt (by omega)
    cursorInBuffer := Nat.le_trans (Nat.mod_le ..) hspace
    fixedPart := hcursor
    txStarted := h.txStarted
    headerPresent := rfl
    lenValid := rfl
    packetComplete := rfl
    hdrOff := rfl
    expectedLen := rfl
    hdrSnap := congrArg HdrSnap.ofBytes ((Memory.readRange_sealed hwf (by omega)).trans hmagic)
    magic := hmagic
    lengthField := Memory.u16_writeAll_le16 h.bufferOk.1 5 _ }

/-- The composite leaves a completed build. -/
theorem State.buildCompleted_generated {s : State} (h : s.bufferOk) (hcap : 14 ≤ s.capacity) (type src dst : Byte) :
    (s.generated type src dst).BuildCompleted (s.buf.writeAll 0 (fixedPart 14 src dst type 0)) 12 := by
  have hwf : (s.buf.writeAll 0 (fixedPart 14 src dst type 0)).wf = true := Memory.wf_writeAll h.1 ..
  have hfixed : (s.withBuf (s.buf.writeAll 0 (fixedPart 14 src dst type 0))).bufferOk :=
    h.writeAll (.inr (Nat.le_trans (show 12 ≤ 14 by decide) hcap))
  have hbytes : (s.buf.writeAll 0 (fixedPart 14 src dst type 0)).readRange 0 12 = fixedPart 14 src dst type 0 :=
    Memory.readRange_writeAll_self h.1 0 (fixedPart 14 src dst type 0)
  exact {
    wf := hwf
    buf := rfl
    bufferOk := hfixed.writeAll (.inr hcap)
    cursor := rfl
    cursorInBuffer := hcap
    fixedPart := Nat.le_refl 12
    txStarted := rfl
    headerPresent := rfl
    lenValid := rfl
    packetComplete := rfl
    hdrOff := rfl
    expectedLen := rfl
    hdrSnap := rfl
    magic := by
      rw [← Memory.take_readRange _ (show 5 ≤ 12 by decide), hbytes]
      rfl
    lengthField := by
      have hfield (i : Nat) (hi : i < 12) := Memory.getD_readRange
        (s.buf.writeAll 0 (fixedPart 14 src dst type 0)) 0 12 i 0 hi
      simp only [hbytes, Nat.zero_add] at hfield
      rw [← hfield 5 (by decide), ← hfield 6 (by decide)]
      rfl }

/-! Receiving. -/

/-- The state between the append and the header detector: all invariants of a receiving unit but that a header which has
arrived is located (V10). -/
structure State.HeaderPending (s : State) : Prop where
  bufferOk : s.bufferOk
  cursorInBuffer : s.cursorInBuffer
  lengthHasHeader : s.lengthHasHeader
  completeHasFrame : s.completeHasFrame
  headerIsMagic : s.headerIsMagic
  lengthIsField : s.lengthIsField
  txStarted : s.txStarted = false
  headerIsFirst : s.headerPresent = true → findMagic (s.bytes 0 s.cursor.toNat) = some s.hdrOff.toNat

section Append
variable {s : State} {n : U16} {bytes : List Byte}

theorem State.appended_cursor (hspace : s.cursor.toNat + n.toNat ≤ s.capacity) :
    (s.appended n bytes).cursor.toNat = s.cursor.toNat + n.toNat :=
  Nat.mod_eq_of_lt (Nat.lt_of_le_of_lt hspace s.capacity_lt)

/-- Appending leaves the bytes received so far. -/
theorem State.appended_byteAt (h : s.bufferOk) {a : Nat} (ha : a < s.cursor.toNat) :
    (s.appended n bytes).byteAt a = s.byteAt a :=
  (Memory.read_writeAll h.1 ..).trans (if_neg (by omega))

theorem State.appended_bytes (h : s.bufferOk) {a b : Nat} (hb : b ≤ s.cursor.toNat) :
    (s.appended n bytes).bytes a b = s.bytes a b :=
  Memory.readRange_congr fun _ _ _ => s.appended_byteAt h (by omega)

theorem State.Inv.appended (h : s.Inv) (htx : s.txStarted = false)
    (hspace : s.cursor.toNat + n.toNat ≤ s.capacity) (hbytes : s.cursor.toNat + bytes.length ≤ s.capacity) :
    (s.appended n bytes).HeaderPending := by
  have hcursor := State.appended_cursor (bytes := bytes) hspace
  exact {
    bufferOk := h.bufferOk.writeAll (.inr hbytes)
    cursorInBuffer := hcursor.trans_le hspace
    lengthHasHeader := h.lengthHasHeader
    completeHasFrame := fun hcomplete => by
      obtain ⟨hlength, hframe⟩ := h.completeHasFrame hcomplete
      exact ⟨hlength, hcursor ▸ Nat.le_add_right_of_le hframe⟩
    headerIsMagic := fun hheader => by
      obtain ⟨hin, hmagic, hsnap⟩ := h.headerIsMagic hheader
      exact ⟨hcursor ▸ Nat.le_add_right_of_le hin, (State.appended_bytes h.bufferOk hin).trans hmagic, hsnap⟩
    lengthIsField := fun hlength => by
      obtain ⟨hin, hfield⟩ := h.lengthIsField hlength
      refine ⟨hcursor ▸ Nat.le_add_right_of_le hin, hfield.trans ?_⟩
      rw [← State.appended_byteAt h.bufferOk (show s.hdrOff.toNat + 5 < s.cursor.toNat by omega),
        ← State.appended_byteAt h.bufferOk (show s.hdrOff.toNat + 6 < s.cursor.toNat by omega)]
      rfl
    txStarted := htx
    headerIsFirst := fun hheader => by
      have hfound := findMagic_append ((h.headerIsFirst htx).2 hheader)
        ((s.buf.writeAll s.cursor.toNat bytes).readRange s.cursor.toNat n.toNat)
      rw [← State.appended_bytes (n := n) (bytes := bytes) h.bufferOk (Nat.le_refl _)] at hfound
      rw [hcursor, State.bytes, Nat.sub_zero, Memory.readRange_add, Nat.zero_add]
      exact hfound }

end Append

/-- The header detector establishes V10 and V4, and keeps the rest (R131). -/
theorem State.HeaderPending.inv_withHeader {s : State} (h : s.HeaderPending) : s.withHeader.Inv := by
  unfold State.withHeader
  split
  next hheader =>
    exact ⟨h.bufferOk, h.cursorInBuffer, h.lengthHasHeader, h.completeHasFrame, h.headerIsMagic, h.lengthIsField,
      ⟨(nomatch h.txStarted.symm.trans ·), (nomatch h.txStarted.symm.trans ·)⟩,
      fun _ => ⟨(nomatch hheader.symm.trans ·), h.headerIsFirst⟩, fun _ => (nomatch h.txStarted.symm.trans ·)⟩
  next habsent =>
    have hlength (hl : s.lenValid = true) : False := habsent (h.lengthHasHeader hl)
    have hcomplete (hc : s.packetComplete = true) : False := hlength (h.completeHasFrame hc).1
    split
    next hnone =>
      exact ⟨h.bufferOk, h.cursorInBuffer, h.lengthHasHeader, h.completeHasFrame, h.headerIsMagic, h.lengthIsField,
        ⟨(nomatch h.txStarted.symm.trans ·), (nomatch h.txStarted.symm.trans ·)⟩,
        fun _ => ⟨fun _ => hnone, fun hheader => absurd hheader habsent⟩,
        fun hc => (hcomplete hc).elim⟩
    next p hfound =>
      obtain ⟨hin, hmagic⟩ := findMagic_eq_some hfound
      rw [State.length_bytes] at hin
      have hp : (BitVec.ofNat 16 p).toNat = p := by
        have := s.cursor.isLt
        rw [BitVec.toNat_ofNat]
        omega
      have hbytes : s.bytes p (p + 5) = magic := by
        rw [State.bytes, Memory.drop_readRange _ (by omega), Memory.take_readRange _ (by omega), Nat.zero_add] at hmagic
        rw [State.bytes, Nat.add_sub_cancel_left]
        exact hmagic
      refine ⟨h.bufferOk, h.cursorInBuffer, fun _ => rfl, fun hc => (hcomplete hc).elim, fun _ => ⟨?_, ?_, ?_⟩,
        fun hl => (hlength hl).elim, ⟨(nomatch h.txStarted.symm.trans ·), (nomatch h.txStarted.symm.trans ·)⟩,
        fun _ => ⟨(nomatch ·), fun _ => ?_⟩, fun hc => (hcomplete hc).elim⟩
      · show (BitVec.ofNat 16 p).toNat + 5 ≤ s.cursor.toNat
        omega
      · show s.bytes (BitVec.ofNat 16 p).toNat ((BitVec.ofNat 16 p).toNat + 5) = magic
        rw [hp, hbytes]
      · show (HdrSnap.ofBytes (s.bytes p (p + 5))).toBytes = magic
        rw [hbytes]
        rfl
      · show findMagic (s.bytes 0 s.cursor.toNat) = some (BitVec.ofNat 16 p).toNat
        rw [hp, hfound]

/-- The length step establishes V5 and keeps the rest (R135). -/
theorem State.Inv.withLength {s : State} (h : s.Inv) (htx : s.txStarted = false) : s.withLength.Inv := by
  unfold State.withLength
  split
  next hread =>
    obtain ⟨hheader, hunknown, hin⟩ := hread
    have hcomplete (hc : s.packetComplete = true) : False := nomatch hunknown.symm.trans (h.completeHasFrame hc).1
    exact ⟨h.bufferOk, h.cursorInBuffer, fun _ => hheader, fun hc => (hcomplete hc).elim, h.headerIsMagic,
      fun _ => ⟨hin, rfl⟩, ⟨(nomatch htx.symm.trans ·), (nomatch htx.symm.trans ·)⟩, h.headerIsFirst,
      fun hc => (hcomplete hc).elim⟩
  next => exact h

/-- The completion step establishes V3 and keeps the rest (R136). -/
theorem State.Inv.completeFrame {s : State} (h : s.Inv) (htx : s.txStarted = false) : (completeFrame s).Inv := by
  unfold Machine.completeFrame
  split
  next hend =>
    obtain ⟨-, hlength, hin⟩ := hend
    exact ⟨h.bufferOk, h.cursorInBuffer, h.lengthHasHeader, fun _ => ⟨hlength, hin⟩, h.headerIsMagic, h.lengthIsField,
      ⟨(nomatch htx.symm.trans ·), (nomatch htx.symm.trans ·)⟩, h.headerIsFirst,
      fun _ => (nomatch htx.symm.trans ·)⟩
  next => exact h

/-- Receiving keeps the invariants. -/
theorem State.Inv.received {s : State} {n : U16} {bytes : List Byte} (h : s.Inv) (htx : s.txStarted = false)
    (hspace : s.cursor.toNat + n.toNat ≤ s.capacity) (hbytes : s.cursor.toNat + bytes.length ≤ s.capacity) :
    (s.received n bytes).Inv := by
  have hheader := (s.appended n bytes).withHeader_parsedFrom
  have hlength := (s.appended n bytes).withHeader.withLength_parsedFrom
  exact ((h.appended htx hspace hbytes).inv_withHeader.withLength (hheader.txStarted.trans htx)).completeFrame
    (hlength.txStarted.trans (hheader.txStarted.trans htx))

/-! Every effect, command and step. -/

/-- Every effect keeps the invariants. -/
theorem Effect.inv {i : Instr} {s u : State} (heffect : Effect i s u) (h : s.Inv) : u.Inv := by
  cases heffect with
  | query => exact h
  | reset => exact State.inv_of_empty h.bufferOk rfl rfl rfl rfl rfl
  | lock => exact h
  | unlock => exact h
  | start _ hcap => exact (State.buildInProgress_opened h.bufferOk hcap _ _).inv
  | patch _ hopen => exact ((h.buildInProgress hopen).patched i).inv
  | addData hopen hspace hpayload => exact ((h.buildInProgress hopen).withItem hspace hpayload).inv
  | complete hopen hspace => exact ((h.buildInProgress hopen).finished hspace).inv
  | generateAck _ hcap => exact (State.buildCompleted_generated h.bufferOk hcap ..).inv
  | generateNack _ hcap => exact (State.buildCompleted_generated h.bufferOk hcap ..).inv
  | receive _ htx hspace hbytes => exact h.received htx hspace hbytes

/-- Every command keeps the invariants. -/
theorem State.Inv.exec {i : Instr} {s t : State} (h : s.Inv) (hexec : exec i s = .next t) : t.Inv := by
  obtain ⟨code, rfl⟩ | ⟨u, value, data, heffect, rfl⟩ := effect_of_exec hexec
  · exact h.respond _
  · exact (heffect.inv h).respond _

/-- Settles O9: the idle step and a malformed packet touch nothing the invariants speak of, and a command keeps them. -/
theorem everyStepKeepsTheInvariants : Obligations.EveryStepKeepsTheInvariants := by
  intro s t h hstep
  cases hpending : s.pending with
  | nil =>
    rw [step_of_pending_nil hpending] at hstep
    cases hstep
    exact h
  | cons packet rest =>
    have htaken : State.Inv { s with pending := rest } := h
    cases hdecode : decode packet with
    | error why =>
      rw [step_of_decode_error hpending hdecode] at hstep
      cases hstep
      exact htaken.respond _
    | ok i =>
      rw [step_of_decode_ok hpending hdecode] at hstep
      exact htaken.exec hstep

/-- Settles O8: after power-on no flag is set and the buffer counts as empty (R42). -/
theorem resetStateHasTheInvariants : Obligations.ResetStateHasTheInvariants := by
  have hreset (cap : U16) (contents : Memory) (hwf : contents.wf = true) (hin : contents.within cap.toNat = true) :
      (State.resetWith cap contents).Inv := State.inv_of_empty ⟨hwf, hin⟩ rfl rfl rfl rfl rfl
  exact ⟨hreset _ [] rfl rfl, hreset⟩

/-- Settles O17: the builder commands refuse a complete frame, and receiving appends behind it (V8). -/
theorem aCompleteFrameIsKept : Obligations.ACompleteFrameIsKept := by
  intro i s t h hcomplete hkeeps hexec
  obtain ⟨code, rfl⟩ | ⟨u, value, data, heffect, rfl⟩ := effect_of_exec hexec
  · exact ⟨hcomplete, rfl, rfl, fun _ _ _ => rfl⟩
  cases heffect with
  | query => exact ⟨hcomplete, rfl, rfl, fun _ _ _ => rfl⟩
  | lock => exact ⟨hcomplete, rfl, rfl, fun _ _ _ => rfl⟩
  | unlock => exact ⟨hcomplete, rfl, rfl, fun _ _ _ => rfl⟩
  | reset => cases hkeeps
  | start => cases hkeeps
  | generateAck => cases hkeeps
  | generateNack => cases hkeeps
  | patch _ hopen => cases hcomplete.symm.trans hopen.2.1
  | addData hopen => cases hcomplete.symm.trans hopen.2.1
  | complete hopen => cases hcomplete.symm.trans hopen.2.1
  | @receive _ n bytes =>
    obtain ⟨hlength, hframe⟩ := h.completeHasFrame hcomplete
    have hparsed := s.received_parsedFrom n bytes
    refine ⟨hparsed.complete hcomplete, (hparsed.header (h.lengthHasHeader hlength)).2.1, (hparsed.length hlength).2,
      fun a _ ha => ?_⟩
    rw [State.respond_byteAt, State.byteAt, hparsed.buf]
    exact State.appended_byteAt h.bufferOk (Nat.lt_of_lt_of_le ha hframe)

end Sys2Proof.Machine
end

section
/-! An open build, byte by byte (R41 V7): what a start, an ack setter and an item leave in the buffer, and a whole
sequence of them by induction. -/

namespace Sys2Proof.Machine

/-! The three builder commands where they complete. -/

theorem exec_startNewMessage_ok {s : State} (hlock : s.lock = false) (hcap : 12 ≤ s.capacity) (src dst : Byte) :
    exec (.startNewMessage src dst) s = .next ((s.opened src dst).respond ⟨.ok, 0, []⟩) := by
  rw [exec_startNewMessage_eq, lockCheck, raiseIf_neg (Bool.eq_false_iff.mp hlock), Cmd.ok_bind,
    raiseIf_neg (Nat.not_lt.mpr hcap), Cmd.ok_bind, Cmd.pure_eq, State.answer_ok]

theorem exec_ackSetter_ok {i : Instr} {s : State} (hi : isAckSetter i = true) (hopen : s.buildOpen)
    (hcap : 9 < s.capacity) : exec i s = .next ((s.patched i).respond ⟨.ok, 0, []⟩) := by
  have hpatch {patch : Byte → Byte} (h : patch (s.byteAt 9) = typeAfter (s.byteAt 9) i) :
      s.answer (patchTypeByte patch s) = .next ((s.patched i).respond ⟨.ok, 0, []⟩) := by
    rw [patchTypeByte_eq, (builderCheck_eq_ok (u := ())).mpr hopen, Cmd.ok_bind, State.reach_ok hcap, Cmd.ok_bind, h]
    rfl
  obtain rfl | rfl | rfl : i = .addAckRequest ∨ i = .addAckStatus ∨ i = .addNackStatus := by
    simpa [isAckSetter] using hi
  · exact hpatch rfl
  · exact hpatch rfl
  · exact hpatch rfl

theorem exec_addData_ok {s : State} {type : Byte} {n : U16} {payload : List Byte} (hfits : InlineFits n payload)
    (hopen : s.buildOpen) (hcap : 11 < s.capacity) (hspace : s.cursor.toNat + 3 + n.toNat ≤ s.capacity) :
    exec (.addData type n payload) s = .next ((s.withItem type n payload).respond ⟨.ok, 0, []⟩) := by
  rw [exec_addData_eq, (builderCheck_eq_ok (u := ())).mpr hopen, Cmd.ok_bind, raiseIf_neg (Nat.not_lt.mpr hspace),
    Cmd.ok_bind, State.reach_ok (by rw [hfits]; omega), Cmd.ok_bind, State.reach_ok hcap, Cmd.ok_bind, Cmd.pure_eq,
    State.answer_ok]

/-! The open build. -/

/-- `s` is an unlocked open build of `items` whose type byte is `type`: the fixed part with the count of the items and
the length field still 0, the items behind it, the cursor behind them (R41 V7). -/
structure State.BuildHolds (s : State) (src dst type : Byte) (items : List Item) : Prop where
  build : s.BuildInProgress
  lock : s.lock = false
  cursor : s.cursor.toNat = 12 + (itemsToBytes items).length
  fixedBytes : s.bytes 0 12 = fixedPart 0 src dst type items.length
  itemBytes : s.bytes 12 s.cursor.toNat = itemsToBytes items

theorem itemsToBytes_append (items items' : List Item) :
    itemsToBytes (items ++ items') = itemsToBytes items ++ itemsToBytes items' :=
  List.flatMap_append

theorem itemsToBytes_concat (items : List Item) (it : Item) :
    itemsToBytes (items ++ [it]) = itemsToBytes items ++ it.toBytes := by
  rw [itemsToBytes_append, itemsToBytes, itemsToBytes, List.flatMap_singleton]

/-- The bytes `ADD_DATA` appends are those of the item (R76). -/
theorem Item.toBytes_eq {n : U16} {payload : List Byte} (hfits : InlineFits n payload) (type : Byte) :
    (⟨type, payload⟩ : Item).toBytes = type :: (le16 n ++ payload) := by
  rw [Item.toBytes, hfits, BitVec.ofNat_toNat, BitVec.setWidth_eq]

theorem Item.length_toBytes (it : Item) : it.toBytes.length = 3 + it.payload.length := by
  simp only [Item.toBytes, List.length_cons, List.length_append, le16_length]
  omega

/-- A buffer that holds the items holds no more of them than it has bytes. -/
theorem length_le_length_itemsToBytes (items : List Item) : items.length ≤ (itemsToBytes items).length := by
  induction items with
  | nil => exact Nat.le_refl 0
  | cons it items ih =>
    rw [itemsToBytes, List.flatMap_cons, List.length_append, Item.length_toBytes, List.length_cons]
    rw [itemsToBytes] at ih
    omega

namespace State.BuildHolds
variable {s : State} {src dst type : Byte} {items : List Item} (h : s.BuildHolds src dst type items)
include h

theorem respond (r : Response) : (s.respond r).BuildHolds src dst type items where
  build := ⟨h.build.bufferOk, h.build.cursorInBuffer, h.build.txStarted, h.build.headerPresent, h.build.lenValid,
    h.build.packetComplete, h.build.fixedPart, h.build.hdrOff, h.build.magic⟩
  lock := h.lock
  cursor := h.cursor
  fixedBytes := h.fixedBytes
  itemBytes := h.itemBytes

theorem buildOpen : s.buildOpen := ⟨h.lock, h.build.packetComplete, h.build.txStarted⟩

theorem capacity : 12 ≤ s.capacity := Nat.le_trans h.build.fixedPart h.build.cursorInBuffer

/-- The bytes of the fixed part, one by one. -/
theorem byteAt_fixed {a : Nat} (ha : a < 12) : s.byteAt a = (fixedPart 0 src dst type items.length).getD a 0 := by
  rw [← h.fixedBytes, State.getD_bytes s ha, Nat.zero_add]

/-- The stored count is the number of items (R41 V7). -/
theorem count : u16 (s.byteAt 10) (s.byteAt 11) = BitVec.ofNat 16 items.length := by
  rw [h.byteAt_fixed (by decide), h.byteAt_fixed (by decide)]
  exact u16_le16 _

/-- An ack setter changes the type byte alone. -/
theorem patched (i : Instr) : (s.patched i).BuildHolds src dst (typeAfter type i) items where
  build := h.build.patched i
  lock := h.lock
  cursor := h.cursor
  fixedBytes := by
    show (s.buf.writeAll 9 [typeAfter (s.byteAt 9) i]).readRange 0 12 = _
    have hfixed : s.buf.readRange 0 12 = _ := h.fixedBytes
    rw [Memory.readRange_writeAll_inside h.build.bufferOk.1 (show 10 ≤ 12 by decide), hfixed,
      h.byteAt_fixed (by decide)]
    rfl
  itemBytes :=
    (Memory.readRange_writeAll_disjoint h.build.bufferOk.1 (.inr (show 10 ≤ 12 by decide))).trans h.itemBytes

/-- An item goes behind the others and is counted (R114). -/
theorem withItem {type' : Byte} {n : U16} {payload : List Byte} (hfits : InlineFits n payload)
    (hspace : s.cursor.toNat + 3 + n.toNat ≤ s.capacity) :
    (s.withItem type' n payload).BuildHolds src dst type (items ++ [⟨type', payload⟩]) := by
  have hwf := h.build.bufferOk.1
  have hcursor := h.build.fixedPart
  have hlen : (⟨type', payload⟩ : Item).toBytes.length = 3 + n.toNat := by rw [Item.length_toBytes, hfits]
  have hnext : (s.withItem type' n payload).cursor.toNat = s.cursor.toNat + (3 + n.toNat) := by
    rw [← Nat.add_assoc]
    exact Nat.mod_eq_of_lt (Nat.lt_of_le_of_lt hspace s.capacity_lt)
  obtain ⟨m, hm⟩ : ∃ m, m = s.buf.writeAll s.cursor.toNat (⟨type', payload⟩ : Item).toBytes := ⟨_, rfl⟩
  have hmwf : m.wf = true := hm ▸ Memory.wf_writeAll hwf ..
  have hfixed : m.readRange 0 12 = fixedPart 0 src dst type items.length := by
    rw [hm, Memory.readRange_writeAll_disjoint hwf (.inl hcursor)]
    exact h.fixedBytes
  have hcount : u16 (m.read 10) (m.read 11) + 1 = BitVec.ofNat 16 (items.length + 1) := by
    have hread {a : Nat} (ha : a < s.cursor.toNat) : m.read a = s.byteAt a := by
      rw [hm, Memory.read_writeAll hwf, if_neg (by omega)]
      rfl
    rw [hread (by omega), hread (by omega), h.count, BitVec.ofNat_add]
    rfl
  have hbuf : (s.withItem type' n payload).buf = m.writeAll 10 (le16 (BitVec.ofNat 16 (items.length + 1))) := by
    rw [← hcount, hm, Item.toBytes_eq hfits]
    rfl
  refine ⟨h.build.withItem hspace (hfits ▸ hspace), h.lock, ?_, ?_, ?_⟩
  · rw [hnext, h.cursor, itemsToBytes_concat, List.length_append, hlen, Nat.add_assoc]
  · rw [State.bytes, hbuf, List.length_append, Memory.readRange_writeAll_inside hmwf (show 12 ≤ 12 by decide), hfixed]
    rfl
  · have hitems : m.readRange 12 (s.cursor.toNat - 12) = itemsToBytes items := by
      rw [hm, Memory.readRange_writeAll_disjoint hwf (.inl (by omega))]
      exact h.itemBytes
    have hsplit : s.cursor.toNat + (3 + n.toNat) - 12 = (s.cursor.toNat - 12) + (3 + n.toNat) := by omega
    rw [State.bytes, hbuf, hnext, Memory.readRange_writeAll_disjoint hmwf (.inr (show 12 ≤ 12 by decide)), hsplit,
      Memory.readRange_add, hitems, Nat.add_sub_cancel' hcursor, itemsToBytes_concat, ← hlen, hm,
      Memory.readRange_writeAll_self hwf]

end State.BuildHolds

/-- A start leaves an open build without items (R110). -/
theorem State.buildHolds_opened {s : State} (h : s.bufferOk) (hlock : s.lock = false) (hcap : 12 ≤ s.capacity)
    (src dst : Byte) : (s.opened src dst).BuildHolds src dst freshTypeByte [] where
  build := State.buildInProgress_opened h hcap src dst
  lock := hlock
  cursor := rfl
  fixedBytes := Memory.readRange_writeAll_self h.1 0 (fixedPart 0 src dst freshTypeByte 0)
  itemBytes := rfl

/-! Sequences of builder commands. -/

/-- The first command of a run answers `OK`: the run goes on from there. -/
theorem runOk_cons {i : Instr} {s u : State} {value : U16} {data : List Byte}
    (h : exec i s = .next (u.respond ⟨.ok, value, data⟩)) (rest : List Instr) :
    runOk (i :: rest) s = runOk rest (u.respond ⟨.ok, value, data⟩) := by
  have hok : (u.respond ⟨.ok, value, data⟩).lastOk = true := by simp [State.lastOk]
  simp only [runOk, h, hok, if_true]

theorem itemsOf_cons (i : Instr) (rest : List Instr) : itemsOf (i :: rest) = itemsOf [i] ++ itemsOf rest := by
  cases i <;> rfl

/-- One builder command that fits, on an open build. -/
theorem State.BuildHolds.exec_buildOp {i : Instr} {s : State} {src dst type : Byte} {items : List Item}
    (h : s.BuildHolds src dst type items) (hop : isBuildOp i = true) (hwf : WellFormed i)
    (hfits : 12 + (itemsToBytes (items ++ itemsOf [i])).length ≤ s.capacity) :
    ∃ u : State, exec i s = .next (u.respond ⟨.ok, 0, []⟩) ∧
      u.BuildHolds src dst (typeAfter type i) (items ++ itemsOf [i]) := by
  have hsetter (hi : isAckSetter i = true) (hno : itemsOf [i] = []) :
      ∃ u : State, exec i s = .next (u.respond ⟨.ok, 0, []⟩) ∧
        u.BuildHolds src dst (typeAfter type i) (items ++ itemsOf [i]) := by
    rw [hno, List.append_nil]
    exact ⟨_, exec_ackSetter_ok hi h.buildOpen (Nat.lt_of_lt_of_le (by decide) h.capacity), h.patched i⟩
  cases i with
  | addAckRequest => exact hsetter rfl rfl
  | addAckStatus => exact hsetter rfl rfl
  | addNackStatus => exact hsetter rfl rfl
  | addData type' n payload =>
    have hspace : s.cursor.toNat + 3 + n.toNat ≤ s.capacity := by
      rw [itemsOf, itemsOf, itemsToBytes_concat, List.length_append, Item.length_toBytes, hwf] at hfits
      rw [h.cursor]
      omega
    exact ⟨_, exec_addData_ok hwf h.buildOpen h.capacity hspace, h.withItem hwf hspace⟩
  | _ => cases hop

/-- Builder commands that fit, on an open build: it holds their items behind its own, and the type byte they leave. -/
theorem State.BuildHolds.runOk_buildOps {ops : List Instr} {s : State} {src dst type : Byte} {items : List Item}
    (h : s.BuildHolds src dst type items) (hops : ∀ i ∈ ops, isBuildOp i = true ∧ WellFormed i)
    (hfits : 12 + (itemsToBytes (items ++ itemsOf ops)).length ≤ s.capacity) :
    ∃ t, runOk ops s = some t ∧ t.BuildHolds src dst (ops.foldl typeAfter type) (items ++ itemsOf ops) := by
  induction ops generalizing s type items with
  | nil => exact ⟨s, rfl, by rwa [itemsOf, List.append_nil]⟩
  | cons i ops ih =>
    obtain ⟨⟨hop, hwf⟩, hrest⟩ := List.forall_mem_cons.mp hops
    rw [itemsOf_cons, ← List.append_assoc] at hfits ⊢
    have hfirst : 12 + (itemsToBytes (items ++ itemsOf [i])).length ≤ s.capacity := by
      refine Nat.le_trans (Nat.add_le_add_left ?_ 12) hfits
      rw [itemsToBytes_append _ (itemsOf ops), List.length_append]
      exact Nat.le_add_right ..
    obtain ⟨u, hexec, hu⟩ := h.exec_buildOp hop hwf hfirst
    have hcap : (u.respond ⟨.ok, 0, []⟩).capacity = s.capacity := by
      rw [State.capacity, (respondedOnce_of_exec hexec).1]
      rfl
    rw [runOk_cons hexec]
    exact ih (hu.respond _) hrest (hcap ▸ hfits)

/-- Settles O33: a start opens an empty build, and every builder command that fits adds its item to it (V7). -/
theorem anOpenBuildHoldsItsItems : Obligations.AnOpenBuildHoldsItsItems := by
  intro s src dst ops hbuf hlock hops hfits
  have hcap : 12 ≤ s.capacity := Nat.le_trans (Nat.le_add_right ..) hfits
  have hstart := (State.buildHolds_opened hbuf hlock hcap src dst).respond ⟨.ok, 0, []⟩
  obtain ⟨t, hrun, ht⟩ := hstart.runOk_buildOps hops hfits
  have hnumber : (itemsOf ops).length < 65536 := by
    have hitems := length_le_length_itemsToBytes (itemsOf ops)
    have hmax := s.capacity_lt
    omega
  refine ⟨t, ?_, ?_, ht.lock, ht.cursor, ht.itemBytes, ?_⟩
  · rw [runOk_cons (exec_startNewMessage_ok hlock hcap src dst), hrun]
  · rw [State.phase, ht.build.txStarted, ht.build.packetComplete]
  · rw [← u16_toNat, ht.count]
    exact Nat.mod_eq_of_lt hnumber

end Sys2Proof.Machine
end

section
/-! Bytes at or above the cursor are unobservable (R41 V9): two runs of one command, on two buffers that agree below the
cursor, go the same way. -/

namespace Sys2Proof.Machine

/-! Buffers that agree. -/

/-- The buffers `m` and `m'` have the same bytes below offset `n`. -/
def Memory.Agree (n : Nat) (m m' : Memory) : Prop := ∀ a, a < n → m'.read a = m.read a

namespace Memory.Agree
variable {m m' : Memory} {n : Nat}

theorem mono (h : Agree n m m') {k : Nat} (hk : k ≤ n) : Agree k m m' := fun a ha => h a (Nat.lt_of_lt_of_le ha hk)

theorem readRange (h : Agree n m m') {a k : Nat} (hk : a + k ≤ n) : m'.readRange a k = m.readRange a k :=
  readRange_congr fun x _ hx => h x (by omega)

/-- The same block written to both: they agree as far as before, or to the end of a block that starts no further. -/
theorem writeAll (h : Agree n m m') (hm : m.wf = true) (hm' : m'.wf = true) {a k : Nat} {bs : List Byte}
    (hk : k ≤ n ∨ a ≤ n ∧ k ≤ a + bs.length) : Agree k (m.writeAll a bs) (m'.writeAll a bs) := by
  intro x hx
  rw [read_writeAll hm, read_writeAll hm']
  split_ifs with hin
  · rfl
  · exact h x (by omega)

/-- Sealing what agrees seals it with the same checksum. -/
theorem sealed (h : Agree n m m') (hm : m.wf = true) (hm' : m'.wf = true) :
    Agree (n + 2) (m.sealed n) (m'.sealed n) := by
  rw [Memory.sealed, Memory.sealed, h.readRange (by omega)]
  exact h.writeAll hm hm' (.inr ⟨Nat.le_refl n, Nat.le_refl _⟩)

/-- The same item added to both, its count field in what agrees. -/
theorem addItem (h : Agree n m m') (hm : m.wf = true) (hm' : m'.wf = true) {type : Byte} {k : U16}
    {payload : List Byte} (hfits : InlineFits k payload) (hn : 12 ≤ n) :
    Agree (n + 3 + k.toNat) (m.addItem n type k payload) (m'.addItem n type k payload) := by
  have hitem : Agree (n + 3 + k.toNat) (m.writeAll n (type :: (le16 k ++ payload)))
      (m'.writeAll n (type :: (le16 k ++ payload))) :=
    h.writeAll hm hm'
      (.inr ⟨Nat.le_refl _, by simp only [List.length_cons, List.length_append, le16_length, hfits]; omega⟩)
  simp only [Memory.addItem, hitem 10 (by omega), hitem 11 (by omega)]
  exact hitem.writeAll (wf_writeAll hm ..) (wf_writeAll hm' ..) (.inl (Nat.le_refl _))

/-- Both finished as builds that end where they agree. -/
theorem finish (h : Agree n m m') (hm : m.wf = true) (hm' : m'.wf = true) :
    Agree (n + 2) (m.finish n) (m'.finish n) :=
  (h.writeAll hm hm' (.inl (Nat.le_refl n))).sealed (wf_writeAll hm ..) (wf_writeAll hm' ..)

end Memory.Agree

/-! Two runs. -/

/-- The run `c'` goes the way of `c`: it stops alike, or returns alike, in a state that differs only in bytes at or
above the cursor. -/
def SameRun (c c' : Cmd Done) : Prop :=
  match c with
  | .ok d => ∃ m, c' = .ok { d with state := d.state.withBuf m } ∧ Memory.Agree d.state.cursor.toNat d.state.buf m
  | .error e => c' = .error e

/-- Runs that go the same way answer the same. -/
theorem SameRun.answer {c c' : Cmd Done} (h : SameRun c c') {s t : State} {m : Memory}
    (hm : Memory.Agree s.cursor.toNat s.buf m) (ht : s.answer c = .next t) :
    ∃ m', (s.withBuf m).answer c' = .next (t.withBuf m') ∧ Memory.Agree t.cursor.toNat t.buf m' := by
  obtain ⟨d, rfl, rfl⟩ | ⟨code, rfl, rfl⟩ := State.answer_eq_next.mp ht
  · obtain ⟨m', rfl, hm'⟩ := h
    exact ⟨m', rfl, hm'⟩
  · cases h
    exact ⟨m, rfl, hm⟩

namespace SameRun

theorem raise {e : Stop} : SameRun (.error e) (.error e) := rfl

/-- The same in front of both. -/
theorem observe {α} {x x' : Cmd α} {f f' : α → Cmd Done} (hx : x' = x) (hf : ∀ a, x = .ok a → SameRun (f a) (f' a)) :
    SameRun (x >>= f) (x' >>= f') := by
  subst hx
  cases x' with
  | error e => rfl
  | ok a => exact hf a rfl

/-- A check in front of both that does not look at the buffer. -/
theorem check {p : Prop} [Decidable p] {code : ResultCode} {f f' : Unit → Cmd Done}
    (hf : ¬p → SameRun (f ()) (f' ())) : SameRun (raiseIf p code >>= f) (raiseIf p code >>= f') :=
  observe rfl fun _ h => hf (raiseIf_eq_ok.mp h)

/-- `return` of states that differ above the cursor. -/
theorem ret {u : State} {m : Memory} {value : U16} {data : List Byte} (h : Memory.Agree u.cursor.toNat u.buf m) :
    SameRun (.ok ⟨u, value, data⟩) (.ok ⟨u.withBuf m, value, data⟩) := ⟨m, rfl, h⟩

end SameRun

/-! Reads below the cursor. -/

namespace Memory.Agree
variable {s : State} {m : Memory} (hm : Agree s.cursor.toNat s.buf m)
include hm

theorem byteAt {a : Nat} (ha : a < s.cursor.toNat) : (s.withBuf m).byteAt a = s.byteAt a := hm a ha

theorem bytes {a b : Nat} (hb : b ≤ s.cursor.toNat) : (s.withBuf m).bytes a b = s.bytes a b :=
  readRange_congr fun x _ _ => hm x (by omega)

theorem memRead1 {a : Nat} (ha : a < s.cursor.toNat) : (s.withBuf m).memRead1 a = s.memRead1 a := by
  unfold State.memRead1
  rw [hm.byteAt ha, State.withBuf_capacity]

theorem memRead2 {a : Nat} (ha : a + 1 < s.cursor.toNat) : (s.withBuf m).memRead2 a = s.memRead2 a := by
  unfold State.memRead2
  rw [hm.byteAt ha, hm.byteAt (Nat.lt_of_succ_lt ha), State.withBuf_capacity]

theorem memBytes {a b : Nat} (hb : b ≤ s.cursor.toNat) : (s.withBuf m).memBytes a b = s.memBytes a b := by
  unfold State.memBytes
  rw [hm.bytes hb, State.withBuf_capacity]

theorem frameByte {off : Nat} (hoff : s.hdrOff.toNat + off < s.cursor.toNat) :
    (s.withBuf m).frameByte off = s.frameByte off := hm.memRead1 hoff

theorem frameWord {off : Nat} (hoff : s.hdrOff.toNat + off + 1 < s.cursor.toNat) :
    (s.withBuf m).frameWord off = s.frameWord off := hm.memRead2 hoff

/-- `Validate()` reads the frame alone, which lies below the cursor (V3). -/
theorem validate (h : s.Inv) : validate (s.withBuf m) = validate s := by
  have hend : (s.withBuf m).itemsEnd = s.itemsEnd := rfl
  simp only [Machine.validate, State.withBuf_packetComplete, State.withBuf_expectedLen, State.withBuf_hdrOff, hend]
  split_ifs with hcomplete hlen
  · rfl
  · rfl
  · have hframe := (h.completeHasFrame (by simpa using hcomplete)).2
    simp only [minFrameLen] at hlen
    have hitems : s.itemsEnd = s.hdrOff.toNat + s.expectedLen.toNat - 2 := rfl
    rw [hm.memRead2 (by omega), hm.memBytes (by omega), hm.memBytes (by simp only [headerLen]; omega)]

theorem requireValid (h : s.Inv) : requireValid (s.withBuf m) = requireValid s := by
  rw [Machine.requireValid, Machine.requireValid, hm.validate h]

theorem itemAt (hend : s.itemsEnd ≤ s.cursor.toNat) (p : Nat) : (s.withBuf m).itemAt p = s.itemAt p := by
  have hsame : (s.withBuf m).itemsEnd = s.itemsEnd := rfl
  unfold State.itemAt
  rw [hsame]
  by_cases hin : p + 3 > s.itemsEnd
  · rw [if_pos hin, if_pos hin]
  · rw [hm.byteAt (by omega), hm.byteAt (by omega)]

theorem walkFrom (h : s.Inv) (hend : s.itemsEnd ≤ s.cursor.toNat) (k p : Nat) :
    walkFrom (s.withBuf m) k p = walkFrom s k p := by
  have hcap : s.itemsEnd ≤ s.capacity := Nat.le_trans hend h.cursorInBuffer
  induction k generalizing p with
  | zero => rw [walkFrom_zero hcap, walkFrom_zero (s := s.withBuf m) hcap, hm.itemAt hend]
  | succ k ih =>
    rw [walkFrom_succ hcap, walkFrom_succ (s := s.withBuf m) hcap, hm.itemAt hend]
    split
    · rfl
    · exact ih _

end Memory.Agree

/-- A frame that `RequireValid()` passes has its fixed part and lies below the cursor (R138, V3). -/
theorem frame_of_requireValid {s : State} (h : s.Inv) {u : Unit} (hvalid : requireValid s = .ok u) :
    14 ≤ s.expectedLen.toNat ∧ s.hdrOff.toNat + s.expectedLen.toNat ≤ s.cursor.toNat := by
  obtain ⟨code, hcode, hok⟩ := Cmd.bind_eq_ok.mp hvalid
  obtain rfl : code = .ok := not_not.mp (raiseIf_eq_ok.mp hok)
  obtain ⟨hcomplete, hlen, -⟩ := (validate_eq_ok_iff s h.frameInBuffer).mp hcode
  exact ⟨hlen, (h.completeHasFrame hcomplete).2⟩

/-- An item that the walk answers lies in the item section (R144). -/
theorem lt_itemsEnd_of_walkFrom {s : State} (hcap : s.itemsEnd ≤ s.capacity) {k p q len : Nat}
    (hwalk : walkFrom s k p = .ok (some (q, len))) : q < s.itemsEnd := by
  induction k generalizing p with
  | zero =>
    rw [walkFrom_zero hcap, State.itemAt] at hwalk
    split_ifs at hwalk with hheader hpayload
    · cases hwalk
    · cases hwalk
    · cases hwalk
      omega
  | succ k ih =>
    rw [walkFrom_succ hcap] at hwalk
    split at hwalk
    · cases hwalk
    · exact ih hwalk

/-! What each command writes. -/

section Commands
variable {s : State} {m : Memory}

theorem State.withHeader_withBuf (hm : Memory.Agree s.cursor.toNat s.buf m) :
    (s.withBuf m).withHeader = s.withHeader.withBuf m := by
  unfold State.withHeader
  rw [State.withBuf_cursor, hm.bytes (Nat.le_refl _), State.withBuf_headerPresent]
  split
  · rfl
  split
  next => rfl
  next p hfound =>
    have hin := (findMagic_eq_some hfound).1
    rw [State.length_bytes] at hin
    rw [hm.bytes (by omega)]
    rfl

theorem State.withLength_withBuf (hm : Memory.Agree s.cursor.toNat s.buf m) :
    (s.withBuf m).withLength = s.withLength.withBuf m := by
  by_cases hread : s.headerPresent = true ∧ s.lenValid = false ∧ s.cursor.toNat ≥ s.hdrOff.toNat + 7
  · refine (if_pos hread).trans ?_
    rw [State.withBuf_hdrOff, hm.byteAt (by omega), hm.byteAt (by omega), State.withLength, if_pos hread]
    rfl
  · exact (if_neg hread).trans (congrArg (State.withBuf · m) (if_neg hread).symm)

theorem completeFrame_withBuf (s : State) (m : Memory) :
    completeFrame (s.withBuf m) = (completeFrame s).withBuf m := by
  by_cases hend : s.headerPresent = true ∧ s.lenValid = true ∧ s.cursor.toNat ≥ s.hdrOff.toNat + s.expectedLen.toNat
  · refine (if_pos hend).trans ?_
    rw [completeFrame, if_pos hend]
    rfl
  · exact (if_neg hend).trans (congrArg (State.withBuf · m) (if_neg hend).symm)

/-- The parse steps read below the cursor alone (R131 to R136). -/
theorem State.received_withBuf (h : s.Inv) (hwf : m.wf = true) (hm : Memory.Agree s.cursor.toNat s.buf m) {n : U16}
    {bytes : List Byte} (hfits : InlineFits n bytes) (hspace : s.cursor.toNat + n.toNat ≤ s.capacity) :
    ∃ m', (s.withBuf m).received n bytes = (s.received n bytes).withBuf m' ∧
      Memory.Agree (s.received n bytes).cursor.toNat (s.received n bytes).buf m' := by
  have hagree : Memory.Agree (s.appended n bytes).cursor.toNat (s.appended n bytes).buf
      (m.writeAll s.cursor.toNat bytes) := by
    rw [State.appended_cursor hspace]
    exact hm.writeAll h.bufferOk.1 hwf (.inr ⟨Nat.le_refl _, by rw [hfits]⟩)
  have hheader := (s.appended n bytes).withHeader_parsedFrom
  have hparsed := s.received_parsedFrom n bytes
  refine ⟨m.writeAll s.cursor.toNat bytes, ?_, by rwa [hparsed.cursor, hparsed.buf]⟩
  show completeFrame ((s.appended n bytes).withBuf (m.writeAll s.cursor.toNat bytes)).withHeader.withLength = _
  rw [State.withHeader_withBuf hagree, State.withLength_withBuf (by rwa [hheader.cursor, hheader.buf]),
    completeFrame_withBuf]
  rfl

namespace SameRun
variable (h : s.Inv) (hwf : m.wf = true) (hm : Memory.Agree s.cursor.toNat s.buf m)
include h hm

/-- A field of the valid frame's fixed part answered (R149 to R152). -/
theorem validByte {off : Nat} (hoff : off < 12) {value : Byte → U16} :
    SameRun (do requireValid s; let b ← s.frameByte off; return s.reply (value b))
      (do requireValid (s.withBuf m); let b ← (s.withBuf m).frameByte off; return (s.withBuf m).reply (value b)) :=
  observe (hm.requireValid h) fun _ hvalid => by
    obtain ⟨hlen, hframe⟩ := frame_of_requireValid h hvalid
    exact observe (hm.frameByte (by omega)) fun _ _ => ret hm

include hwf

theorem patchTypeByte (patch : Byte → Byte) :
    SameRun (Machine.patchTypeByte patch s) (Machine.patchTypeByte patch (s.withBuf m)) := by
  rw [patchTypeByte_eq, patchTypeByte_eq]
  refine observe rfl fun _ hbuild => observe rfl fun _ _ => ?_
  have hcursor := (h.buildInProgress (builderCheck_eq_ok.mp hbuild)).fixedPart
  rw [hm.byteAt (by omega)]
  exact ret (hm.writeAll h.bufferOk.1 hwf (.inl (Nat.le_refl _)))

theorem generate (type src dst : Byte) :
    SameRun (Machine.generate type src dst s) (Machine.generate type src dst (s.withBuf m)) := by
  rw [generate_eq, generate_eq]
  refine observe rfl fun _ _ => check fun _ => check fun _ => ret ?_
  have hfixed : Memory.Agree 12 (s.buf.writeAll 0 (fixedPart 14 src dst type 0))
      (m.writeAll 0 (fixedPart 14 src dst type 0)) :=
    hm.writeAll h.bufferOk.1 hwf (.inr ⟨Nat.zero_le _, Nat.le_refl 12⟩)
  exact hfixed.sealed (Memory.wf_writeAll h.bufferOk.1 ..) (Memory.wf_writeAll hwf ..)

end SameRun

open SameRun in
/-- Every command runs alike on two buffers that agree below the cursor. -/
theorem exec_sameRun (h : s.Inv) (hwf : m.wf = true) (hm : Memory.Agree s.cursor.toNat s.buf m) (i : Instr)
    (hi : WellFormed i) :
    ∃ c c', exec i s = s.answer c ∧ exec i (s.withBuf m) = (s.withBuf m).answer c' ∧ SameRun c c' := by
  cases i with
  | resetBuffer => exact ⟨_, _, rfl, rfl, ret (u := s.cleared) fun _ ha => absurd ha (Nat.not_lt_zero _)⟩
  | lockBuffer => exact ⟨_, _, rfl, rfl, observe rfl fun _ _ => ret (u := { s with lock := true }) hm⟩
  | unlockBuffer => exact ⟨_, _, rfl, rfl, ret (u := { s with lock := false }) hm⟩
  | getLockStatus => exact ⟨_, _, rfl, rfl, ret hm⟩
  | readReg reg =>
    refine ⟨_, _, rfl, rfl, ?_⟩
    have hsame : (s.withBuf m).registerContent reg = s.registerContent reg := rfl
    rw [hsame]
    split
    · exact raise
    · exact ret hm
  | startNewMessage src dst =>
    exact ⟨_, _, exec_startNewMessage_eq .., exec_startNewMessage_eq .., observe rfl fun _ _ => check fun _ =>
      ret (hm.writeAll h.bufferOk.1 hwf (.inr ⟨Nat.zero_le _, Nat.le_refl 12⟩))⟩
  | addAckRequest => exact ⟨_, _, rfl, rfl, SameRun.patchTypeByte h hwf hm _⟩
  | addAckStatus => exact ⟨_, _, rfl, rfl, SameRun.patchTypeByte h hwf hm _⟩
  | addNackStatus => exact ⟨_, _, rfl, rfl, SameRun.patchTypeByte h hwf hm _⟩
  | addData type n payload =>
    refine ⟨_, _, exec_addData_eq .., exec_addData_eq .., observe rfl fun _ hbuild => check fun _ =>
      observe rfl fun _ _ => observe rfl fun _ _ => ret ?_⟩
    have hcursor := (h.buildInProgress (builderCheck_eq_ok.mp hbuild)).fixedPart
    exact (hm.addItem h.bufferOk.1 hwf hi hcursor).mono (Nat.mod_le ..)
  | completeMessage =>
    refine ⟨_, _, exec_completeMessage_eq .., exec_completeMessage_eq .., observe rfl fun _ hbuild => check fun _ =>
      observe rfl fun _ _ => ?_⟩
    have hcursor := (h.buildInProgress (builderCheck_eq_ok.mp hbuild)).fixedPart
    have hframe := hm.finish h.bufferOk.1 hwf
    have hfinished : (s.withBuf m).finished = s.finished.withBuf (m.finish s.cursor.toNat) := by
      unfold State.finished
      rw [State.withBuf_cursor, State.withBuf_buf, hframe.readRange (by omega)]
      rfl
    rw [hfinished]
    exact ret (hframe.mono (Nat.mod_le ..))
  | getSendPacket max =>
    refine ⟨_, _, rfl, rfl, check fun hcomplete => check fun _ => observe (hm.memBytes ?_) fun _ _ => ret hm⟩
    exact (h.completeHasFrame (by simpa using hcomplete)).2
  | generateAckMessage src dst => exact ⟨_, _, rfl, rfl, SameRun.generate h hwf hm ..⟩
  | generateNackMessage src dst => exact ⟨_, _, rfl, rfl, SameRun.generate h hwf hm ..⟩
  | addReceivedBytes n bytes =>
    refine ⟨_, _, exec_addReceivedBytes_eq .., exec_addReceivedBytes_eq .., observe rfl fun _ _ => check fun _ =>
      check fun hspace => ?_⟩
    have hin : s.cursor.toNat + n.toNat ≤ s.capacity := Nat.not_lt.mp hspace
    have hwrite (u : State) (hu : s.cursor.toNat + n.toNat ≤ u.capacity) :
        u.memWriteBytes s.cursor.toNat bytes = .ok (u.withBuf (u.buf.writeAll s.cursor.toNat bytes)) :=
      State.memWriteBytes_ok (.inr (by rw [hi]; exact hu))
    obtain ⟨m', heq, hm'⟩ := State.received_withBuf h hwf hm hi hin
    rw [State.withBuf_cursor, hwrite s hin, hwrite (s.withBuf m) hin, Cmd.ok_bind, Cmd.ok_bind, heq]
    exact ret hm'
  | dataAvailable => exact ⟨_, _, rfl, rfl, observe (hm.validate h) fun _ _ => ret hm⟩
  | validateData => exact ⟨_, _, rfl, rfl, observe (hm.requireValid h) fun _ _ => ret hm⟩
  | getDataCount =>
    refine ⟨_, _, rfl, rfl, observe (hm.requireValid h) fun _ hvalid => ?_⟩
    obtain ⟨hlen, hframe⟩ := frame_of_requireValid h hvalid
    exact observe (hm.frameWord (by simp only [countOff]; omega)) fun _ _ => ret hm
  | getDataInfo k =>
    refine ⟨_, _, rfl, rfl, observe (hm.requireValid h) fun _ hvalid => ?_⟩
    obtain ⟨hlen, hframe⟩ := frame_of_requireValid h hvalid
    have hend : s.itemsEnd ≤ s.cursor.toNat := Nat.le_trans (Nat.sub_le ..) hframe
    refine observe (hm.frameWord (by simp only [countOff]; omega)) fun _ _ => check fun _ =>
      observe (hm.walkFrom h hend ..) fun item hwalk => ?_
    cases item with
    | none => exact raise
    | some item =>
      have hitem := lt_itemsEnd_of_walkFrom (Nat.le_trans hend h.cursorInBuffer) hwalk
      exact observe (hm.memRead1 (Nat.lt_of_lt_of_le hitem hend)) fun _ _ => ret hm
  | getData off type n max =>
    refine ⟨_, _, rfl, rfl, observe (hm.requireValid h) fun _ hvalid => check fun _ => check fun hrange =>
      observe (hm.memBytes ?_) fun _ _ => ret hm⟩
    obtain ⟨-, hframe⟩ := frame_of_requireValid h hvalid
    obtain ⟨-, hin⟩ := not_or.mp hrange
    exact Nat.le_trans (Nat.not_lt.mp hin) (Nat.le_trans (Nat.sub_le ..) hframe)
  | getSourceId => exact ⟨_, _, rfl, rfl, validByte h hm (by decide)⟩
  | getDestinationId => exact ⟨_, _, rfl, rfl, validByte h hm (by decide)⟩
  | getAckStatus => exact ⟨_, _, rfl, rfl, validByte h hm (by decide)⟩
  | getAckRequest => exact ⟨_, _, rfl, rfl, validByte h hm (by decide)⟩
  | findHeaderPosition n bytes => exact ⟨_, _, rfl, rfl, ret hm⟩
  | getMessageBufferLen hpos n bytes => exact ⟨_, _, rfl, rfl, check fun _ => ret hm⟩
  | crc16 n bytes => exact ⟨_, _, rfl, rfl, ret hm⟩

end Commands

/-- Settles O18: the two states run alike, and runs that go alike answer alike (V9). -/
theorem bytesAboveTheCursorAreUnobservable : Obligations.BytesAboveTheCursorAreUnobservable := by
  intro i s s' t h h' hi hrest hagree hexec
  obtain ⟨m, rfl⟩ : ∃ m, s' = s.withBuf m := ⟨s'.buf, hrest⟩
  obtain ⟨c, c', hrun, hrun', hsame⟩ := exec_sameRun h h'.bufferOk.1 hagree i hi
  rw [hrun] at hexec
  obtain ⟨m', hnext, hm'⟩ := hsame.answer hagree hexec
  exact ⟨_, hrun'.trans hnext, rfl, hm'⟩

end Sys2Proof.Machine
end

section
/-! A 2-byte field of the buffer (R51): one block write of its two bytes. -/

namespace Sys2Proof.Machine

/-- The two bytes of a 2-byte field, the low one at the lower offset (R51). -/
theorem Memory.toNat_read_writeAll_le16 {m : Memory} (h : m.wf = true) (a : Nat) (v : U16) :
    ((m.writeAll a (le16 v)).read a).toNat = v.toNat % 256 ∧
      ((m.writeAll a (le16 v)).read (a + 1)).toNat = v.toNat / 256 := by
  have hvalue := congrArg BitVec.toNat (Memory.u16_writeAll_le16 h a v)
  rw [u16_toNat] at hvalue
  have hlow := ((m.writeAll a (le16 v)).read a).isLt
  omega

/-- Settles O60: the write is a block write of `le16 v`, and a block write changes its own bytes alone. -/
theorem twoByteFieldsAreLittleEndianAtAnyOffset : Obligations.TwoByteFieldsAreLittleEndianAtAnyOffset := by
  intro s a v ⟨hwf, _⟩ ha
  obtain ⟨hlow, hhigh⟩ := Memory.toNat_read_writeAll_le16 hwf a v
  refine ⟨s.buf.writeAll a (le16 v), State.memWrite2_ok ha, ?_, hlow, hhigh, fun x hx hx' => ?_⟩
  · exact (State.memRead2_ok (s := s.withBuf (s.buf.writeAll a (le16 v))) ha).trans
      (congrArg Except.ok (Memory.u16_writeAll_le16 hwf a v))
  · exact (Memory.read_writeAll hwf a (le16 v) x).trans (if_neg (by rw [le16_length]; omega))

end Sys2Proof.Machine
end

section
/-! Queries (R53): no effect but a response. -/

namespace Sys2Proof.Machine

theorem isQuery_of_isAckSetter {i : Instr} (h : isAckSetter i = true) : isQuery i = false := by
  obtain rfl | rfl | rfl := of_decide_eq_true h <;> rfl

/-- A completed query has written nothing (R53). -/
theorem Effect.eq_of_isQuery {i : Instr} {s u : State} (heffect : Effect i s u) (hquery : isQuery i = true) :
    u = s := by
  cases heffect with
  | query => rfl
  | patch hsetter => cases hquery.symm.trans (isQuery_of_isAckSetter hsetter)
  | reset | lock | unlock | start | addData | complete | generateAck | generateNack | receive => cases hquery

/-- Settles O14: failing is a response, and the effect of a query is none. -/
theorem queriesOnlyAnswer : Obligations.QueriesOnlyAnswer := by
  intro i s t hquery hexec
  obtain ⟨code, rfl⟩ | ⟨u, value, data, heffect, rfl⟩ := effect_of_exec hexec
  · exact ⟨.failing code, rfl⟩
  · rw [heffect.eq_of_isQuery hquery]
    exact ⟨_, rfl⟩

end Sys2Proof.Machine
end

section
/-! What the decoder gives (R88): a well-formed command, and the packet is that command's. -/

namespace Sys2Proof

/-- The command `i` is well-formed, and its packet has the opcode `op` and the operand bytes `rest` (R85). -/
structure Carries (op : Byte) (rest : List Byte) (i : Instr) : Prop where
  wellFormed : WellFormed i
  opcode : (opcode i).toNat = op.toNat
  operands : encodeOperands i = rest

/-! One rule per packet format: what it gives is carried by what it read. -/

section Formats
variable {op : Byte} {rest : List Byte} {i : Instr}

theorem operandsN_carries {j : Instr} (h : operandsN op j rest = .ok i)
    (hj : Carries op [] j) : Carries op rest i := by
  unfold operandsN at h
  split at h
  · cases h
    exact hj
  · cases h

theorem operandsR_carries {f : Byte → Instr} (h : operandsR op f rest = .ok i)
    (hf : ∀ r, Carries op [r] (f r)) : Carries op rest i := by
  unfold operandsR at h
  split at h
  · cases h
    exact hf _
  · cases h

theorem operandsP_carries {f : Byte → Byte → Instr} (h : operandsP op f rest = .ok i)
    (hf : ∀ s d, Carries op [s, d] (f s d)) : Carries op rest i := by
  unfold operandsP at h
  split at h
  · cases h
    exact hf _ _
  · cases h

theorem operandsW_carries {f : U16 → Instr} (h : operandsW op f rest = .ok i)
    (hf : ∀ w, Carries op (le16 w) (f w)) : Carries op rest i := by
  unfold operandsW at h
  split at h
  next w0 w1 =>
    cases h
    simpa only [le16_u16] using hf (u16 w0 w1)
  next => cases h

theorem operandsS_carries {f : U16 → List Byte → Instr} (h : operandsS op f rest = .ok i)
    (hf : ∀ n bytes, InlineFits n bytes → Carries op (le16 n ++ bytes) (f n bytes)) : Carries op rest i := by
  unfold operandsS at h
  split at h
  next n0 n1 bytes =>
    split at h
    next hfits =>
      cases h
      simpa only [le16_u16, List.cons_append, List.nil_append] using hf (u16 n0 n1) bytes hfits
    next => cases h
  next => cases h

theorem operandsD_carries {f : Byte → U16 → List Byte → Instr} (h : operandsD op f rest = .ok i)
    (hf : ∀ t n payload, InlineFits n payload → Carries op (t :: (le16 n ++ payload)) (f t n payload)) :
    Carries op rest i := by
  unfold operandsD at h
  split at h
  next t n0 n1 payload =>
    split at h
    next hfits =>
      cases h
      simpa only [le16_u16, List.cons_append, List.nil_append] using hf t (u16 n0 n1) payload hfits
    next => cases h
  next => cases h

theorem operandsG_carries {f : U16 → Byte → U16 → U16 → Instr} (h : operandsG op f rest = .ok i)
    (hf : ∀ off t n max, Carries op (le16 off ++ t :: (le16 n ++ le16 max)) (f off t n max)) : Carries op rest i := by
  unfold operandsG at h
  split at h
  next o0 o1 t n0 n1 m0 m1 =>
    cases h
    simpa only [le16_u16, List.cons_append, List.nil_append] using hf (u16 o0 o1) t (u16 n0 n1) (u16 m0 m1)
  next => cases h

theorem operandsH_carries {f : U16 → U16 → List Byte → Instr} (h : operandsH op f rest = .ok i)
    (hf : ∀ p n bytes, InlineFits n bytes → Carries op (le16 p ++ (le16 n ++ bytes)) (f p n bytes)) :
    Carries op rest i := by
  unfold operandsH at h
  split at h
  next p0 p1 n0 n1 bytes =>
    split at h
    next hfits =>
      cases h
      simpa only [le16_u16, List.cons_append, List.nil_append] using hf (u16 p0 p1) (u16 n0 n1) bytes hfits
    next => cases h
  next => cases h

/-- Every opcode's arm reads the format of its row (R92). -/
theorem carries_of_decodeOperands (h : decodeOperands op rest = .ok i) : Carries op rest i := by
  unfold decodeOperands at h
  split at h
  next hop => exact operandsN_carries h ⟨trivial, hop.symm, rfl⟩
  next hop => exact operandsN_carries h ⟨trivial, hop.symm, rfl⟩
  next hop => exact operandsN_carries h ⟨trivial, hop.symm, rfl⟩
  next hop => exact operandsN_carries h ⟨trivial, hop.symm, rfl⟩
  next hop => exact operandsR_carries h fun _ => ⟨trivial, hop.symm, rfl⟩
  next hop => exact operandsP_carries h fun _ _ => ⟨trivial, hop.symm, rfl⟩
  next hop => exact operandsN_carries h ⟨trivial, hop.symm, rfl⟩
  next hop => exact operandsN_carries h ⟨trivial, hop.symm, rfl⟩
  next hop => exact operandsN_carries h ⟨trivial, hop.symm, rfl⟩
  next hop => exact operandsD_carries h fun _ _ _ hfits => ⟨hfits, hop.symm, rfl⟩
  next hop => exact operandsN_carries h ⟨trivial, hop.symm, rfl⟩
  next hop => exact operandsW_carries h fun _ => ⟨trivial, hop.symm, rfl⟩
  next hop => exact operandsP_carries h fun _ _ => ⟨trivial, hop.symm, rfl⟩
  next hop => exact operandsP_carries h fun _ _ => ⟨trivial, hop.symm, rfl⟩
  next hop => exact operandsS_carries h fun _ _ hfits => ⟨hfits, hop.symm, rfl⟩
  next hop => exact operandsN_carries h ⟨trivial, hop.symm, rfl⟩
  next hop => exact operandsN_carries h ⟨trivial, hop.symm, rfl⟩
  next hop => exact operandsN_carries h ⟨trivial, hop.symm, rfl⟩
  next hop => exact operandsW_carries h fun _ => ⟨trivial, hop.symm, rfl⟩
  next hop => exact operandsG_carries h fun _ _ _ _ => ⟨trivial, hop.symm, rfl⟩
  next hop => exact operandsN_carries h ⟨trivial, hop.symm, rfl⟩
  next hop => exact operandsN_carries h ⟨trivial, hop.symm, rfl⟩
  next hop => exact operandsN_carries h ⟨trivial, hop.symm, rfl⟩
  next hop => exact operandsN_carries h ⟨trivial, hop.symm, rfl⟩
  next hop => exact operandsS_carries h fun _ _ hfits => ⟨hfits, hop.symm, rfl⟩
  next hop => exact operandsH_carries h fun _ _ _ hfits => ⟨hfits, hop.symm, rfl⟩
  next hop => exact operandsS_carries h fun _ _ hfits => ⟨hfits, hop.symm, rfl⟩
  next => cases h

end Formats

/-- What decodes is a well-formed command and the packet of that command (R93). -/
theorem wellFormed_and_encode_of_decode {packet : List Byte} {i : Instr} (h : decode packet = .ok i) :
    WellFormed i ∧ encode i = packet := by
  cases packet with
  | nil => cases h
  | cons op rest =>
    obtain ⟨hwf, hop, hrest⟩ := carries_of_decodeOperands h
    exact ⟨hwf, congrArg₂ List.cons (BitVec.eq_of_toNat_eq hop) hrest⟩

end Sys2Proof
end

section
/-! No step stops in a state with the invariants (R56, R208): every access of every command lies in the buffer. -/

namespace Sys2Proof.Machine

/-- The pseudocode `c` returns or raises: the model does not stop in it (log 5). -/
def NeverStops {α} (c : Cmd α) : Prop := ∀ reason, c ≠ .error (.fault reason)

/-! One rule per shape of a command's pseudocode. -/

namespace NeverStops
variable {α β : Type} {s : State}

/-- `return`. -/
theorem ret {a : α} : NeverStops (.ok a : Cmd α) := by
  intro reason h
  cases h

/-- `raise`. -/
theorem raise {code : ResultCode} : NeverStops (.error (.raise code) : Cmd α) := by
  intro reason h
  cases h

/-- A part in front that does not stop. -/
theorem bind {x : Cmd α} {f : α → Cmd β} (hx : NeverStops x) (hf : ∀ a, x = .ok a → NeverStops (f a)) :
    NeverStops (x >>= f) := by
  intro reason h
  obtain hstop | ⟨a, ha, hstop⟩ := Cmd.bind_eq_error.mp h
  · exact hx reason hstop
  · exact hf a ha reason hstop

/-- A part in front that gives a known value. -/
theorem value {x : Cmd α} {a : α} {f : α → Cmd β} (hx : x = .ok a) (hf : NeverStops (f a)) :
    NeverStops (x >>= f) := by
  rw [hx]
  exact hf

theorem raiseIf {p : Prop} [Decidable p] {code : ResultCode} : NeverStops (Machine.raiseIf p code) := by
  intro reason h
  obtain ⟨-, hcode⟩ := raiseIf_eq_error.mp h
  cases hcode

/-- A check in front. -/
theorem check {p : Prop} [Decidable p] {code : ResultCode} {f : Unit → Cmd β} (hf : ¬p → NeverStops (f ())) :
    NeverStops (Machine.raiseIf p code >>= f) :=
  bind raiseIf fun _ h => hf (raiseIf_eq_ok.mp h)

/-- The lock check in front (R203). -/
theorem unlocked {f : Unit → Cmd β} (hf : s.lock = false → NeverStops (f ())) : NeverStops (lockCheck s >>= f) :=
  check fun h => hf (Bool.eq_false_iff.mpr h)

/-- The builder check in front (R119): what it passes is an open build, its fixed part in the buffer (V1, V6). -/
theorem built {f : Unit → Cmd β} (h : s.Inv) (hf : 12 ≤ s.capacity → NeverStops (f ())) :
    NeverStops (builderCheck s >>= f) :=
  bind (unlocked fun _ => check fun _ => raiseIf) fun _ hbuild =>
    hf (Nat.le_trans (h.buildInProgress (builderCheck_eq_ok.mp hbuild)).fixedPart h.cursorInBuffer)

/-- `RequireValid()` in front (R145): what it passes is a frame with its fixed part, inside the buffer (R138). -/
theorem valid {f : Unit → Cmd β} (h : s.Inv)
    (hf : 14 ≤ s.expectedLen.toNat → s.hdrOff.toNat + s.expectedLen.toNat ≤ s.capacity → NeverStops (f ())) :
    NeverStops (requireValid s >>= f) := by
  refine bind (value (validate_eq s h.frameInBuffer) raiseIf) fun _ hvalid => ?_
  obtain ⟨hlen, hframe⟩ := frame_of_requireValid h hvalid
  exact hf hlen (Nat.le_trans hframe h.cursorInBuffer)

/-- A byte of the valid frame's fixed part answered (R149 to R152). -/
theorem validByte (h : s.Inv) {off : Nat} (hoff : off < 12) {answer : Byte → U16} :
    NeverStops (do requireValid s; let b ← s.frameByte off; return s.reply (answer b)) :=
  valid h fun hlen hframe => value (State.memRead1_ok (by omega)) ret

theorem patchTypeByte (h : s.Inv) (patch : Byte → Byte) : NeverStops (Machine.patchTypeByte patch s) := by
  rw [patchTypeByte_eq]
  exact built h fun hcap => value (State.reach_ok (by omega)) ret

theorem generate (type src dst : Byte) : NeverStops (Machine.generate type src dst s) := by
  rw [generate_eq]
  exact unlocked fun _ => check fun _ => check fun _ => ret

/-- The walk reads inside an item section that lies in the buffer (R144). -/
theorem walkFrom (hend : s.itemsEnd ≤ s.capacity) (k p : Nat) : NeverStops (Machine.walkFrom s k p) := by
  induction k generalizing p with
  | zero =>
    rw [walkFrom_zero hend]
    exact ret
  | succ k ih =>
    rw [walkFrom_succ hend]
    split
    · exact ret
    · exact ih _

/-- Pseudocode that does not stop is answered. -/
theorem answer {c : Cmd Done} (h : NeverStops c) (s : State) : ∃ t, s.answer c = .next t := by
  match c with
  | .ok d => exact ⟨_, rfl⟩
  | .error (.raise code) => exact ⟨_, rfl⟩
  | .error (.fault reason) => exact absurd rfl (h reason)

end NeverStops

open NeverStops in
/-- Every well-formed command, issued in a state with the invariants, ends in `State.answer` on pseudocode that does not
stop. -/
theorem exec_neverStops {s : State} (h : s.Inv) {i : Instr} (hi : WellFormed i) :
    ∃ c, exec i s = s.answer c ∧ NeverStops c := by
  cases i with
  | resetBuffer => exact ⟨_, rfl, ret⟩
  | lockBuffer => exact ⟨_, rfl, unlocked fun _ => ret⟩
  | unlockBuffer => exact ⟨_, rfl, ret⟩
  | getLockStatus => exact ⟨_, rfl, ret⟩
  | readReg reg =>
    refine ⟨_, rfl, ?_⟩
    split
    · exact raise
    · exact ret
  | startNewMessage src dst =>
    exact ⟨_, exec_startNewMessage_eq src dst s, unlocked fun _ => check fun _ => ret⟩
  | addAckRequest => exact ⟨_, rfl, NeverStops.patchTypeByte h _⟩
  | addAckStatus => exact ⟨_, rfl, NeverStops.patchTypeByte h _⟩
  | addNackStatus => exact ⟨_, rfl, NeverStops.patchTypeByte h _⟩
  | addData type n payload =>
    have hlen : payload.length = n.toNat := hi
    exact ⟨_, exec_addData_eq type n payload s, built h fun hcap => check fun hspace =>
      value (State.reach_ok (by omega)) (value (State.reach_ok (by omega)) ret)⟩
  | completeMessage =>
    exact ⟨_, exec_completeMessage_eq s, built h fun hcap => check fun _ => value (State.reach_ok (by omega)) ret⟩
  | getSendPacket max =>
    exact ⟨_, rfl, check fun hcomplete => check fun _ =>
      value (State.memBytes_ok (.inr (h.frameInBuffer (Bool.not_eq_false _ ▸ hcomplete)))) ret⟩
  | generateAckMessage src dst => exact ⟨_, rfl, NeverStops.generate _ src dst⟩
  | generateNackMessage src dst => exact ⟨_, rfl, NeverStops.generate _ src dst⟩
  | addReceivedBytes n bytes =>
    have hlen : bytes.length = n.toNat := hi
    exact ⟨_, exec_addReceivedBytes_eq n bytes s, unlocked fun _ => check fun _ => check fun hspace =>
      value (State.memWriteBytes_ok (.inr (by omega))) ret⟩
  | dataAvailable => exact ⟨_, rfl, value (validate_eq s h.frameInBuffer) ret⟩
  | validateData => exact ⟨_, rfl, valid h fun _ _ => ret⟩
  | getDataCount =>
    exact ⟨_, rfl, valid h fun hlen hframe => value (State.memRead2_ok (by simp only [countOff]; omega)) ret⟩
  | getDataInfo k =>
    refine ⟨_, rfl, valid h fun hlen hframe => ?_⟩
    have hend : s.itemsEnd ≤ s.capacity := Nat.le_trans (Nat.sub_le ..) hframe
    refine value (State.memRead2_ok (by simp only [countOff]; omega)) (check fun _ =>
      NeverStops.bind (NeverStops.walkFrom hend _ _) fun item hwalk => ?_)
    cases item with
    | none => exact raise
    | some item =>
      exact value (State.memRead1_ok (Nat.lt_of_lt_of_le (lt_itemsEnd_of_walkFrom hend hwalk) hend)) ret
  | getData off type n max =>
    refine ⟨_, rfl, valid h fun _ hframe => check fun _ => check fun hrange =>
      value (State.memBytes_ok (.inr ?_)) ret⟩
    obtain ⟨-, hin⟩ := not_or.mp hrange
    exact Nat.le_trans (Nat.not_lt.mp hin) (Nat.le_trans (Nat.sub_le ..) hframe)
  | getSourceId => exact ⟨_, rfl, validByte h (by decide)⟩
  | getDestinationId => exact ⟨_, rfl, validByte h (by decide)⟩
  | getAckStatus => exact ⟨_, rfl, validByte h (by decide)⟩
  | getAckRequest => exact ⟨_, rfl, validByte h (by decide)⟩
  | findHeaderPosition n bytes => exact ⟨_, rfl, ret⟩
  | getMessageBufferLen hpos n bytes => exact ⟨_, rfl, check fun _ => ret⟩
  | crc16 n bytes => exact ⟨_, rfl, ret⟩

/-- A well-formed command answers in every state with the invariants (R56). -/
theorem State.Inv.exec_answers {s : State} (h : s.Inv) {i : Instr} (hi : WellFormed i) :
    ∃ t, Machine.exec i s = .next t := by
  obtain ⟨c, hexec, hc⟩ := exec_neverStops h hi
  rw [hexec]
  exact hc.answer s

/-- Settles O10: the idle step and a malformed packet never stop, and what decodes is a well-formed command. -/
theorem invariantStatesNeverStop : Obligations.InvariantStatesNeverStop := by
  intro s h
  cases hpending : s.pending with
  | nil => exact ⟨s, step_of_pending_nil hpending⟩
  | cons packet rest =>
    cases hdecode : decode packet with
    | error why => exact ⟨_, step_of_decode_error hpending hdecode⟩
    | ok i =>
      have htaken : State.Inv { s with pending := rest } := h
      rw [step_of_decode_ok hpending hdecode]
      obtain ⟨hwf, -⟩ := wellFormed_and_encode_of_decode hdecode
      exact htaken.exec_answers hwf

end Sys2Proof.Machine
end

section
/-! The codec: each format reads back the operands it lays out (R87), a packet of its format's length is read, and so
the decoder inverts the encoder and is total (R88, R93). -/

namespace Sys2Proof

/-! One rule per packet format with a 16-bit operand: the operand bytes of a command are read back as its operands. -/

section ReadBack
variable {op : Byte}

theorem operandsW_le16 {f : U16 → Instr} (w : U16) : operandsW op f (le16 w) = .ok (f w) := by
  obtain ⟨w0, w1, hbytes, rfl⟩ := le16_eq w
  rw [hbytes]
  rfl

theorem operandsS_le16 {f : U16 → List Byte → Instr} {n : U16} {bytes : List Byte} (hfits : InlineFits n bytes) :
    operandsS op f (le16 n ++ bytes) = .ok (f n bytes) := by
  obtain ⟨n0, n1, hbytes, rfl⟩ := le16_eq n
  rw [hbytes]
  exact if_pos hfits

theorem operandsD_le16 {f : Byte → U16 → List Byte → Instr} (type : Byte) {n : U16} {payload : List Byte}
    (hfits : InlineFits n payload) : operandsD op f (type :: (le16 n ++ payload)) = .ok (f type n payload) := by
  obtain ⟨n0, n1, hbytes, rfl⟩ := le16_eq n
  rw [hbytes]
  exact if_pos hfits

theorem operandsG_le16 {f : U16 → Byte → U16 → U16 → Instr} (off : U16) (type : Byte) (n max : U16) :
    operandsG op f (le16 off ++ type :: (le16 n ++ le16 max)) = .ok (f off type n max) := by
  obtain ⟨o0, o1, hoff, rfl⟩ := le16_eq off
  obtain ⟨n0, n1, hn, rfl⟩ := le16_eq n
  obtain ⟨m0, m1, hmax, rfl⟩ := le16_eq max
  rw [hoff, hn, hmax]
  rfl

theorem operandsH_le16 {f : U16 → U16 → List Byte → Instr} (hpos : U16) {n : U16} {bytes : List Byte}
    (hfits : InlineFits n bytes) : operandsH op f (le16 hpos ++ (le16 n ++ bytes)) = .ok (f hpos n bytes) := by
  obtain ⟨p0, p1, hp, rfl⟩ := le16_eq hpos
  obtain ⟨n0, n1, hn, rfl⟩ := le16_eq n
  rw [hp, hn]
  exact if_pos hfits

end ReadBack

/-- Settles O1: a command's opcode selects the arm of its own row (R92), whose format reads the operands back. -/
theorem decodeInvertsEncode : Obligations.DecodeInvertsEncode := by
  intro i hwf
  cases i with
  | resetBuffer | lockBuffer | unlockBuffer | getLockStatus => rfl
  | addAckRequest | addAckStatus | addNackStatus | completeMessage => rfl
  | dataAvailable | validateData | getDataCount => rfl
  | getSourceId | getDestinationId | getAckStatus | getAckRequest => rfl
  | readReg => rfl
  | startNewMessage | generateAckMessage | generateNackMessage => rfl
  | getSendPacket max => exact operandsW_le16 (op := 0x16) max
  | getDataInfo k => exact operandsW_le16 (op := 0x24) k
  | addReceivedBytes | findHeaderPosition | crc16 => exact operandsS_le16 hwf
  | addData type => exact operandsD_le16 type hwf
  | getData off type n max => exact operandsG_le16 (op := 0x25) off type n max
  | getMessageBufferLen hpos => exact operandsH_le16 hpos hwf

/-- Settles O3: each packet is the encoding of its command, which the decoder gives back. -/
theorem packetsFromTheTablesDecode : Obligations.PacketsFromTheTablesDecode :=
  ⟨decodeInvertsEncode .resetBuffer trivial, decodeInvertsEncode (.readReg 3) trivial,
    decodeInvertsEncode (.startNewMessage 1 2) trivial, decodeInvertsEncode (.getSendPacket 0x0120) trivial,
    decodeInvertsEncode (.addData 7 3 [0x10, 0x20, 0x30]) rfl,
    decodeInvertsEncode (.addReceivedBytes 2 [0x55, 0x41]) rfl,
    decodeInvertsEncode (.getData 0x010F 7 3 0x0210) trivial,
    decodeInvertsEncode (.getMessageBufferLen 0x13 2 [0x55, 0x41]) rfl, decodeInvertsEncode (.crc16 1 [0xFF]) rfl⟩

end Sys2Proof
end

section
/-! The decoder is total (R93): what is not malformed is read, and what is read is not malformed. -/

namespace Sys2Proof

/-- A format's reading of the operand bytes `rest` of a packet with opcode `op`, as some row of the opcode map with that
format asks for it (R87, R92). -/
inductive Format.Reading (op : Byte) (rest : List Byte) : Format → Except DecodeError Instr → Prop
  | N (i : Instr) : Reading op rest .N (operandsN op i rest)
  | R (f : Byte → Instr) : Reading op rest .R (operandsR op f rest)
  | P (f : Byte → Byte → Instr) : Reading op rest .P (operandsP op f rest)
  | W (f : U16 → Instr) : Reading op rest .W (operandsW op f rest)
  | S (f : U16 → List Byte → Instr) : Reading op rest .S (operandsS op f rest)
  | D (f : Byte → U16 → List Byte → Instr) : Reading op rest .D (operandsD op f rest)
  | G (f : U16 → Byte → U16 → U16 → Instr) : Reading op rest .G (operandsG op f rest)
  | H (f : U16 → U16 → List Byte → Instr) : Reading op rest .H (operandsH op f rest)

section
variable {op : Byte} {rest : List Byte} {fmt : Format}

/-- The decoder reads the operands in the format of the opcode's row: the two tables agree (R92). -/
theorem reading_of_formatOf (h : formatOf op = some fmt) : fmt.Reading op rest (decodeOperands op rest) := by
  unfold formatOf at h
  split at h <;> cases h
  all_goals
    rename_i hop
    simp only [decodeOperands, hop]
    constructor

/-- A string fits its length operand in a packet of `k` bytes more (R88). -/
theorem inlineFits_of_length {n : U16} {bytes : List Byte} {k : Nat} (h : bytes.length + k = k + n.toNat) :
    InlineFits n bytes :=
  Nat.add_right_cancel (h.trans (Nat.add_comm k _))

/-- A format reads every packet that has its packet length (R88). -/
theorem Format.Reading.ok_of_length {r : Except DecodeError Instr} (h : fmt.Reading op rest r)
    (hlen : (op :: rest).length = fmt.packetLength (fmt.lengthField (op :: rest))) : ∃ i, r = .ok i := by
  cases h with
  | N i =>
    match rest, hlen with
    | [], _ => exact ⟨_, rfl⟩
  | R f =>
    match rest, hlen with
    | [_], _ => exact ⟨_, rfl⟩
  | P f =>
    match rest, hlen with
    | [_, _], _ => exact ⟨_, rfl⟩
  | W f =>
    match rest, hlen with
    | [_, _], _ => exact ⟨_, rfl⟩
  | S f =>
    match rest, hlen with
    | [], h | [_], h => simp only [List.length_cons, List.length_nil, Format.packetLength] at h; omega
    | n0 :: n1 :: bytes, h => exact ⟨_, if_pos (inlineFits_of_length (k := 3) h)⟩
  | D f =>
    match rest, hlen with
    | [], h | [_], h | [_, _], h => simp only [List.length_cons, List.length_nil, Format.packetLength] at h; omega
    | t :: n0 :: n1 :: payload, h => exact ⟨_, if_pos (inlineFits_of_length (k := 4) h)⟩
  | G f =>
    match rest, hlen with
    | [_, _, _, _, _, _, _], _ => exact ⟨_, rfl⟩
  | H f =>
    match rest, hlen with
    | [], h | [_], h | [_, _], h | [_, _, _], h =>
      simp only [List.length_cons, List.length_nil, Format.packetLength] at h
      omega
    | p0 :: p1 :: n0 :: n1 :: bytes, h => exact ⟨_, if_pos (inlineFits_of_length (k := 5) h)⟩

end

/-- The packet of every well-formed command has the packet length of its format (R88). -/
theorem encode_length (i : Instr) : Laws.EncodeLength.Statement i := by
  cases i with
  | resetBuffer => exact Laws.EncodeLength.resetBuffer
  | lockBuffer => exact Laws.EncodeLength.lockBuffer
  | unlockBuffer => exact Laws.EncodeLength.unlockBuffer
  | getLockStatus => exact Laws.EncodeLength.getLockStatus
  | readReg reg => exact Laws.EncodeLength.readReg reg
  | startNewMessage src dst => exact Laws.EncodeLength.startNewMessage src dst
  | addAckRequest => exact Laws.EncodeLength.addAckRequest
  | addAckStatus => exact Laws.EncodeLength.addAckStatus
  | addNackStatus => exact Laws.EncodeLength.addNackStatus
  | addData type n payload => exact Laws.EncodeLength.addData type n payload
  | completeMessage => exact Laws.EncodeLength.completeMessage
  | getSendPacket max => exact Laws.EncodeLength.getSendPacket max
  | generateAckMessage src dst => exact Laws.EncodeLength.generateAckMessage src dst
  | generateNackMessage src dst => exact Laws.EncodeLength.generateNackMessage src dst
  | addReceivedBytes n bytes => exact Laws.EncodeLength.addReceivedBytes n bytes
  | dataAvailable => exact Laws.EncodeLength.dataAvailable
  | validateData => exact Laws.EncodeLength.validateData
  | getDataCount => exact Laws.EncodeLength.getDataCount
  | getDataInfo k => exact Laws.EncodeLength.getDataInfo k
  | getData off type n max => exact Laws.EncodeLength.getData off type n max
  | getSourceId => exact Laws.EncodeLength.getSourceId
  | getDestinationId => exact Laws.EncodeLength.getDestinationId
  | getAckStatus => exact Laws.EncodeLength.getAckStatus
  | getAckRequest => exact Laws.EncodeLength.getAckRequest
  | findHeaderPosition n bytes => exact Laws.EncodeLength.findHeaderPosition n bytes
  | getMessageBufferLen hpos n bytes => exact Laws.EncodeLength.getMessageBufferLen hpos n bytes
  | crc16 n bytes => exact Laws.EncodeLength.crc16 n bytes

namespace Machine

theorem malformed_nil : Malformed [] := trivial

/-- A packet is not malformed when its opcode has a format and its length is that format's (R88, R93). -/
theorem not_malformed_cons_iff {op : Byte} {rest : List Byte} :
    ¬ Malformed (op :: rest) ↔
      ∃ fmt, formatOf op = some fmt ∧ (op :: rest).length = fmt.packetLength (fmt.lengthField (op :: rest)) := by
  cases h : formatOf op with
  | none => simp [Malformed, h]
  | some fmt => simp [Malformed, h]

/-- The packets that decode are those that are not malformed (R93). -/
theorem exists_decode_eq_ok_iff {packet : List Byte} : (∃ i, decode packet = .ok i) ↔ ¬ Malformed packet := by
  constructor
  · rintro ⟨i, hdecode⟩
    obtain ⟨hwf, rfl⟩ := wellFormed_and_encode_of_decode hdecode
    exact not_malformed_cons_iff.mpr (encode_length i hwf)
  · intro h
    cases packet with
    | nil => exact absurd malformed_nil h
    | cons op rest =>
      obtain ⟨fmt, hfmt, hlen⟩ := not_malformed_cons_iff.mp h
      exact (reading_of_formatOf hfmt).ok_of_length hlen

/-- A packet that decodes is the packet of that command and of no other well-formed one (R93). -/
theorem wellFormed_and_encode_iff_of_decode {packet : List Byte} {i : Instr} (h : decode packet = .ok i) (j : Instr) :
    (WellFormed j ∧ encode j = packet) ↔ j = i := by
  constructor
  · rintro ⟨hwf, rfl⟩
    exact Except.ok.inj ((decodeInvertsEncode j hwf).symm.trans h)
  · rintro rfl
    exact wellFormed_and_encode_of_decode h

/-- The reserved opcodes: the gaps of the opcode map (R93). -/
theorem formatOf_eq_none_iff (op : Byte) :
    formatOf op = none ↔
      op.toNat = 0 ∨ (0x06 ≤ op.toNat ∧ op.toNat ≤ 0x0F) ∨ (0x19 ≤ op.toNat ∧ op.toNat ≤ 0x1F) ∨
        (0x2A ≤ op.toNat ∧ op.toNat ≤ 0x2F) ∨ 0x33 ≤ op.toNat := by
  unfold formatOf
  split <;> simp only [reduceCtorEq, true_iff, false_iff, imp_false] at *
  all_goals omega

/-- Settles O2: a packet is malformed exactly when it does not decode, and what decodes has one encoding. -/
theorem everyPacketIsOneCommandOrIsAnsweredMalformed :
    Obligations.EveryPacketIsOneCommandOrIsAnsweredMalformed := by
  refine ⟨formatOf_eq_none_iff, fun packet hgood => ?_, fun s packet rest hpending hbad => ?_⟩
  · obtain ⟨i, hdecode⟩ := exists_decode_eq_ok_iff.mpr hgood
    obtain ⟨hwf, -⟩ := wellFormed_and_encode_of_decode hdecode
    exact ⟨i, hdecode, hwf, wellFormed_and_encode_iff_of_decode hdecode⟩
  · cases hdecode : decode packet with
    | error why => exact step_of_decode_error hpending hdecode
    | ok i => exact absurd hbad (exists_decode_eq_ok_iff.mp ⟨i, hdecode⟩)

end Machine
end Sys2Proof
end

section
/-! The response packet (R95, R96). -/

namespace Sys2Proof.Machine

/-- A status byte read back is the code's number (R96). -/
theorem sext8_statusByte (c : ResultCode) : sext8 c.statusByte = c.number := by
  cases c <;> rfl

/-- Settles O4: the two 16-bit fields are read back as they were laid out, and the status byte is its code's. -/
theorem responsePacketCarriesItsFields : Obligations.ResponsePacketCarriesItsFields := by
  refine ⟨fun r hdata => ?_, rfl⟩
  have hlength : r.toPacket.length = 5 + r.data.length := by
    simp only [Response.toPacket, List.length_cons, List.length_append, le16_length]
    omega
  have hvalue : u16At r.toPacket 1 = r.value := u16_le16 r.value
  have hcount : u16At r.toPacket 3 = BitVec.ofNat 16 r.data.length := u16_le16 _
  refine ⟨hlength, sext8_statusByte r.status, hvalue, ?_, rfl⟩
  rw [hcount]
  exact Nat.mod_eq_of_lt (Nat.lt_succ_of_le hdata)

end Sys2Proof.Machine
end

section
/-! The composites against their three commands (R100): start, ack setter and completion leave the very buffer and
registers that the composite writes at once. -/

namespace Sys2Proof.Machine

/-! A start and an ack setter keep the capacity. -/

theorem State.opened_capacity (s : State) (src dst : Byte) : (s.opened src dst).capacity = s.capacity := by
  rw [State.capacity, State.opened, State.capacity]

theorem State.patched_capacity (s : State) (i : Instr) : (s.patched i).capacity = s.capacity := by
  rw [State.patched, State.withBuf_capacity]

/-! The builder commands read nothing of the responses given before. -/

theorem State.patched_respond (s : State) (r : Response) (i : Instr) :
    (s.respond r).patched i = (s.patched i).respond r := rfl

theorem State.finished_respond (s : State) (r : Response) : (s.respond r).finished = s.finished.respond r := rfl

theorem State.unit_respond (s : State) (r : Response) : (s.respond r).unit = s.unit := rfl

theorem runOk_nil (s : State) : runOk [] s = some s := rfl

/-- A completion with room for the checksum, on an open build. -/
theorem State.BuildHolds.exec_completeMessage {s : State} {src dst type : Byte} {items : List Item}
    (h : s.BuildHolds src dst type items) (hspace : 12 + (itemsToBytes items).length + 2 ≤ s.capacity) :
    exec .completeMessage s = .next (s.finished.respond ⟨.ok, BitVec.ofNat 16 (s.cursor.toNat + 2), []⟩) := by
  have hcap := h.capacity
  have hroom : ¬s.cursor.toNat + 2 > s.capacity := by
    rw [h.cursor]
    exact Nat.not_lt.mpr hspace
  rw [exec_completeMessage_eq, (builderCheck_eq_ok (u := ())).mpr h.buildOpen, Cmd.ok_bind, raiseIf_neg hroom,
    Cmd.ok_bind, State.reach_ok (by omega), Cmd.ok_bind, Cmd.pure_eq, State.answer_ok]

theorem generate_ok {s : State} (hlock : s.lock = false) (hcap : 14 ≤ s.capacity) (type src dst : Byte) :
    generate type src dst s = .ok { state := s.generated type src dst, value := 14 } := by
  rw [generate_eq, lockCheck, raiseIf_neg (Bool.eq_false_iff.mp hlock), Cmd.ok_bind,
    raiseIf_neg (by omega), Cmd.ok_bind, raiseIf_neg (Nat.not_lt.mpr hcap), Cmd.ok_bind, Cmd.pure_eq]

/-- A buffer that begins with `bs` and is `m` behind it is `m` with `bs` written at its start. -/
theorem Memory.eq_writeAll_of_readRange {m m' : Memory} (hm : m.wf = true) (hm' : m'.wf = true) {bs : List Byte}
    (hfront : m'.readRange 0 bs.length = bs) (hrest : ∀ x, bs.length ≤ x → m'.read x = m.read x) :
    m' = m.writeAll 0 bs := by
  refine Memory.ext_read hm' (Memory.wf_writeAll hm ..) fun x => ?_
  rw [Memory.read_writeAll hm]
  split
  next hin =>
    have hbyte := Memory.getD_readRange m' 0 bs.length x 0 (by omega)
    rw [hfront, Nat.zero_add] at hbyte
    exact hbyte.symm
  next hout => exact hrest x (by omega)

/-! The buffers that the commands leave. -/

theorem State.opened_buf (s : State) (src dst : Byte) :
    (s.opened src dst).buf = s.buf.writeAll 0 (fixedPart 0 src dst freshTypeByte 0) := by
  rw [State.opened]

theorem State.patched_buf (s : State) (i : Instr) :
    (s.patched i).buf = s.buf.writeAll 9 [typeAfter (s.byteAt 9) i] := by
  rw [State.patched, State.withBuf_buf]

theorem State.generated_buf (s : State) (type src dst : Byte) :
    (s.generated type src dst).buf = s.buf.controlFrame type src dst := by
  rw [State.generated]

theorem length_fixedPart (len : Nat) (src dst type : Byte) (count : Nat) :
    (fixedPart len src dst type count).length = 12 := rfl

/-- A start and an ack setter write the fixed part alone (R70). -/
theorem State.read_patched_opened {s : State} (h : s.bufferOk) (src dst : Byte) (i : Instr) {a : Nat} (ha : 12 ≤ a) :
    ((s.opened src dst).patched i).buf.read a = s.buf.read a := by
  have hopened : (s.opened src dst).buf.wf = true := Memory.wf_writeAll h.1 ..
  rw [State.patched_buf, Memory.read_writeAll hopened, if_neg (by rw [List.length_singleton]; omega),
    State.opened_buf, Memory.read_writeAll h.1, if_neg (by rw [length_fixedPart]; omega)]

/-- An empty build patched and completed holds the composite's control frame (R117). -/
theorem State.finish_patched_opened {s : State} (h : s.bufferOk) (hlock : s.lock = false) (hcap : 12 ≤ s.capacity)
    (src dst : Byte) (i : Instr) :
    ((s.opened src dst).patched i).buf.finish 12 = s.buf.controlFrame (typeAfter freshTypeByte i) src dst := by
  have hbuild := (State.buildHolds_opened h hlock hcap src dst).patched i
  have hwf := hbuild.build.bufferOk.1
  have hfixed := hbuild.fixedBytes
  rw [State.bytes] at hfixed
  refine congrArg (Memory.sealed · 12) (Memory.eq_writeAll_of_readRange h.1 (Memory.wf_writeAll hwf ..) ?_ ?_)
  · rw [length_fixedPart, Memory.readRange_writeAll_inside hwf (by decide), hfixed]
    rfl
  · intro a ha
    rw [length_fixedPart] at ha
    rw [Memory.read_writeAll hwf, if_neg (by rw [le16_length]; omega), State.read_patched_opened h src dst i ha]

/-- Start, ack setter and completion leave the composite's state (R100). -/
theorem State.finished_patched_opened {s : State} (h : s.bufferOk) (hlock : s.lock = false) (hcap : 14 ≤ s.capacity)
    (src dst : Byte) (i : Instr) :
    ((s.opened src dst).patched i).finished = s.generated (typeAfter freshTypeByte i) src dst := by
  have hbuf := s.finish_patched_opened h hlock (by omega) src dst i
  have hmagic := (State.buildCompleted_generated h hcap (typeAfter freshTypeByte i) src dst).bytes_magic
  rw [State.bytes, State.generated_buf, Nat.sub_zero] at hmagic
  have hcursor : ((s.opened src dst).patched i).cursor.toNat = 12 := rfl
  rw [State.finished, hcursor, hbuf, hmagic, State.generated]
  simp only [State.patched, State.opened, State.withBuf]
  rfl

/-- A composite after its setter's type byte, against the three commands one after the other. -/
theorem generate_eq_threeCommands {s : State} (hbuf : s.bufferOk) (hlock : s.lock = false) (hcap : 14 ≤ s.capacity)
    (src dst : Byte) {i j : Instr} (hi : isAckSetter i = true)
    (hj : exec j s = s.answer (generate (typeAfter freshTypeByte i) src dst s)) :
    ∃ t u, runOk [.startNewMessage src dst, i, .completeMessage] s = some t ∧ exec j s = .next u ∧
      u.unit = t.unit := by
  have hcap' : 12 ≤ s.capacity := by omega
  have hopen := (State.buildHolds_opened hbuf hlock hcap' src dst).respond ⟨.ok, 0, []⟩
  have hpatched := (hopen.patched i).respond ⟨.ok, 0, []⟩
  have hspace : 14 ≤ ((((s.opened src dst).respond ⟨.ok, 0, []⟩).patched i).respond ⟨.ok, 0, []⟩).capacity := by
    rwa [State.respond_capacity, State.patched_capacity, State.respond_capacity, State.opened_capacity]
  have hstart := runOk_cons (exec_startNewMessage_ok hlock hcap' src dst) [i, .completeMessage]
  have hsetter := runOk_cons (exec_ackSetter_ok hi hopen.buildOpen (Nat.lt_of_lt_of_le (by decide) hopen.capacity))
    [.completeMessage]
  have hcomplete := runOk_cons (hpatched.exec_completeMessage hspace) []
  rw [generate_ok hlock hcap, State.answer_ok] at hj
  rw [hstart, hsetter, hcomplete, runOk_nil, hj]
  refine ⟨_, _, rfl, rfl, ?_⟩
  rw [State.patched_respond, State.finished_respond, State.finished_respond,
    State.finished_patched_opened hbuf hlock hcap]
  simp only [State.unit_respond]

/-- Settles O32: the setter patches the fresh type byte into the composite's. -/
theorem generateEqualsItsThreeCommands : Obligations.GenerateEqualsItsThreeCommands :=
  fun _ src dst hbuf hlock hcap =>
    ⟨generate_eq_threeCommands hbuf hlock hcap src dst (i := .addAckStatus) rfl rfl,
      generate_eq_threeCommands hbuf hlock hcap src dst (i := .addNackStatus) rfl rfl⟩

end Sys2Proof.Machine
end

section
/-! What the transmit commands answer (R110 to R119): their failures in order, and the bytes of the buffer each of them
leaves. -/

namespace Sys2Proof.Machine

/-! The two entry checks. -/

theorem lockCheck_locked {s : State} (h : s.lock = true) : lockCheck s = .error (.raise .bufferLocked) :=
  raiseIf_pos h

theorem lockCheck_unlocked {s : State} (h : s.lock = false) : lockCheck s = .ok () :=
  raiseIf_neg (Bool.eq_false_iff.mp h)

/-- The five commands that change an open build begin with the builder check (R119). -/
theorem exec_eq_builderCheck_bind {i : Instr} (hi : isAckSetter i = true ∨ isAddData i = true ∨ isComplete i = true)
    (s : State) : ∃ f, exec i s = s.answer (builderCheck s >>= f) := by
  cases i with
  | addAckRequest => exact ⟨_, rfl⟩
  | addAckStatus => exact ⟨_, rfl⟩
  | addNackStatus => exact ⟨_, rfl⟩
  | addData type n payload => exact ⟨_, rfl⟩
  | completeMessage => exact ⟨_, rfl⟩
  | _ => simp [isAckSetter, isAddData, isComplete] at hi

theorem builderChecked_of_builder {i : Instr} (hi : isAckSetter i = true ∨ isAddData i = true ∨ isComplete i = true)
    (s : State) : BuilderChecked i s := by
  obtain ⟨f, hexec⟩ := exec_eq_builderCheck_bind hi s
  rw [BuilderChecked, hexec, builderCheck_eq]
  refine ⟨fun hlock => ?_, fun hlock hcomplete => ?_, fun hlock hcomplete htx => ?_⟩
  · rw [if_pos hlock, Cmd.error_bind, State.answer_raise]
  · rw [if_neg (Bool.eq_false_iff.mp hlock), if_pos hcomplete, Cmd.error_bind, State.answer_raise]
  · rw [if_neg (Bool.eq_false_iff.mp hlock), if_neg (Bool.eq_false_iff.mp hcomplete), if_pos htx, Cmd.error_bind,
      State.answer_raise]

/-- The row `TX_BUILD` of R34's table. -/
theorem State.phase_eq_txBuild_iff (s : State) :
    s.phase = .txBuild ↔ s.packetComplete = false ∧ s.txStarted = true := by
  unfold State.phase
  split <;> simp [*]

/-- Settles O25: each of the five is the builder check and something behind it. -/
theorem builderCommandsCheckInOrder : Obligations.BuilderCommandsCheckInOrder := by
  refine ⟨fun s i hi => builderChecked_of_builder hi s, fun s => ?_⟩
  rw [builderCheck_eq_ok, State.phase_eq_txBuild_iff, and_comm]

/-! The start and the ack setters. -/

/-- Settles O26: the six writes of a start are one write of the fixed part. -/
theorem startNewMessageOpensABuild : Obligations.StartNewMessageOpensABuild := by
  intro s src dst hbuf
  refine ⟨fun hlock => ?_, fun hlock hcap => ?_, fun hlock hcap =>
    ⟨_, exec_startNewMessage_ok hlock hcap src dst, fun a => ?_⟩⟩
  · rw [exec_startNewMessage_eq, lockCheck_locked hlock, Cmd.error_bind, State.answer_raise]
  · rw [exec_startNewMessage_eq, lockCheck_unlocked hlock, Cmd.ok_bind, raiseIf_pos hcap, Cmd.error_bind,
      State.answer_raise]
  · rw [Memory.read_writeAll hbuf.1, length_fixedPart]
    simp only [Nat.zero_le, true_and, Nat.zero_add]
    rfl

/-- On an open build of a state with the invariants the fixed part lies in the buffer (V1, V6). -/
theorem State.Inv.capacity_of_buildOpen {s : State} (h : s.Inv) (hopen : s.buildOpen) : 12 ≤ s.capacity :=
  Nat.le_trans (h.buildInProgress hopen).fixedPart h.cursorInBuffer

/-- Settles O27: an ack setter is a one-byte write at the type byte. -/
theorem ackSettersPatchTheTypeByte : Obligations.AckSettersPatchTheTypeByte := by
  intro s i patched h hi
  obtain ⟨hsetter, htype⟩ : isAckSetter i = true ∧ patched = typeAfter (s.byteAt 9) i := by
    obtain ⟨rfl, hpatched⟩ | ⟨rfl, hpatched⟩ | ⟨rfl, hpatched⟩ := hi
    · exact ⟨rfl, hpatched⟩
    · exact ⟨rfl, hpatched⟩
    · exact ⟨rfl, hpatched⟩
  refine ⟨builderChecked_of_builder (.inl hsetter) s, fun hlock hcomplete htx => ?_⟩
  have hopen : s.buildOpen := ⟨hlock, hcomplete, htx⟩
  have hcap := h.capacity_of_buildOpen hopen
  refine ⟨_, exec_ackSetter_ok hsetter hopen (by omega), fun a => ?_⟩
  rw [Memory.read_writeAll h.bufferOk.1, htype]
  by_cases ha : a = 9
  · subst ha
    rfl
  · rw [if_neg (by rw [List.length_singleton]; omega), if_neg ha, State.byteAt]

/-! The items. -/

/-- The bytes of the buffer after one more item behind the fixed part (R114): the count, the item, every other byte as
before. -/
theorem Memory.read_addItem {m : Memory} (h : m.wf = true) {cursor : Nat} (hcursor : 12 ≤ cursor) (type : Byte)
    {n : U16} {payload : List Byte} (hfits : InlineFits n payload) :
    ∃ lo hi : Byte, u16 lo hi = u16 (m.read 10) (m.read 11) + 1 ∧
      ∀ a, (m.addItem cursor type n payload).read a =
        if a = 10 then lo else if a = 11 then hi
        else if cursor ≤ a ∧ a < cursor + 3 + n.toNat then (type :: (le16 n ++ payload)).getD (a - cursor) 0
        else m.read a := by
  have hlen : (type :: (le16 n ++ payload)).length = 3 + n.toNat := by
    simp only [List.length_cons, List.length_append, le16_length, hfits]
    omega
  have hitem (a : Nat) := Memory.read_writeAll h cursor (type :: (le16 n ++ payload)) a
  rw [hlen, ← Nat.add_assoc] at hitem
  obtain ⟨lo, hi, hle, hcount⟩ := le16_eq (u16 (m.read 10) (m.read 11) + 1)
  refine ⟨lo, hi, hcount, fun a => ?_⟩
  have hlo := (hitem 10).trans (if_neg (by omega))
  have hhi := (hitem 11).trans (if_neg (by omega))
  rw [Memory.addItem, Memory.read_writeAll (Memory.wf_writeAll h ..), hlo, hhi, hle, hitem a]
  by_cases h10 : a = 10
  · subst h10
    rfl
  by_cases h11 : a = 11
  · subst h11
    rfl
  rw [if_neg (by simp only [List.length_cons, List.length_nil]; omega), if_neg h10, if_neg h11]

/-- Settles O28: an item is a block write at the cursor and one of the count. -/
theorem addDataAppendsOneItem : Obligations.AddDataAppendsOneItem := by
  intro s type n payload h hfits
  refine ⟨builderChecked_of_builder (.inr (.inl rfl)) s, fun hlock hcomplete htx hspace => ?_,
    fun hlock hcomplete htx hspace => ?_⟩
  · rw [exec_addData_eq, (builderCheck_eq_ok (u := ())).mpr ⟨hlock, hcomplete, htx⟩, Cmd.ok_bind, raiseIf_pos hspace,
      Cmd.error_bind, State.answer_raise]
  · have hopen : s.buildOpen := ⟨hlock, hcomplete, htx⟩
    obtain ⟨lo, hi, hcount, hread⟩ :=
      Memory.read_addItem h.bufferOk.1 (h.buildInProgress hopen).fixedPart type hfits
    refine ⟨_, _, lo, hi, exec_addData_ok hfits hopen (h.capacity_of_buildOpen hopen) hspace, ?_, ?_, hread⟩
    · exact Nat.mod_eq_of_lt (Nat.lt_of_le_of_lt hspace s.capacity_lt)
    · rw [← u16_toNat, hcount, BitVec.toNat_add, u16_toNat]
      rfl

/-! The completion. -/

/-- A completion with room for the checksum. -/
theorem exec_completeMessage_ok {s : State} (hopen : s.buildOpen) (hcap : 6 < s.capacity)
    (hspace : s.cursor.toNat + 2 ≤ s.capacity) :
    exec .completeMessage s = .next (s.finished.respond ⟨.ok, BitVec.ofNat 16 (s.cursor.toNat + 2), []⟩) := by
  rw [exec_completeMessage_eq, (builderCheck_eq_ok (u := ())).mpr hopen, Cmd.ok_bind,
    raiseIf_neg (Nat.not_lt.mpr hspace), Cmd.ok_bind, State.reach_ok hcap, Cmd.ok_bind, Cmd.pure_eq, State.answer_ok]

/-- A completion writes the length field and the trailer alone (R115). -/
theorem Memory.read_finish {m : Memory} (h : m.wf = true) {cursor a : Nat} (h5 : a ≠ 5) (h6 : a ≠ 6)
    (htrailer : ¬(cursor ≤ a ∧ a < cursor + 2)) : (m.finish cursor).read a = m.read a := by
  rw [Memory.finish, Memory.sealed, Memory.read_writeAll (Memory.wf_writeAll h ..), le16_length, if_neg htrailer,
    Memory.read_writeAll h, le16_length, if_neg (by omega)]

namespace State.BuildCompleted
variable {s : State} {m : Memory} {n : Nat} (h : s.BuildCompleted m n)
include h

/-- The length field of a completed build (R71). -/
theorem u16_lengthField : u16 (s.buf.read 5) (s.buf.read 6) = s.cursor := by
  have hn := h.fixedPart
  rw [h.buf, Memory.read_sealed h.wf (by omega), Memory.read_sealed h.wf (by omega), h.lengthField]

/-- The trailer of a completed build (R78). -/
theorem u16_trailer : u16 (s.buf.read n) (s.buf.read (n + 1)) = crc16Of (s.buf.readRange 0 n) := by
  rw [h.buf]
  exact Memory.u16_sealed h.wf n

end State.BuildCompleted

/-- Settles O29: a completion leaves a completed build, whose trailer is the checksum of the final bytes before it. -/
theorem completeMessageFinishesTheFrame : Obligations.CompleteMessageFinishesTheFrame := by
  intro s h
  refine ⟨builderChecked_of_builder (.inr (.inr rfl)) s, fun hlock hcomplete htx hspace => ?_,
    fun hlock hcomplete htx hspace => ?_⟩
  · rw [exec_completeMessage_eq, (builderCheck_eq_ok (u := ())).mpr ⟨hlock, hcomplete, htx⟩, Cmd.ok_bind,
      raiseIf_pos hspace, Cmd.error_bind, State.answer_raise]
  · have hopen : s.buildOpen := ⟨hlock, hcomplete, htx⟩
    have hcap := h.capacity_of_buildOpen hopen
    have hdone := (h.buildInProgress hopen).finished hspace
    refine ⟨s.finished.buf, s.finished.cursor, ?_, hdone.cursor, hdone.u16_lengthField, hdone.u16_trailer,
      fun a h5 h6 htrailer => Memory.read_finish h.bufferOk.1 h5 h6 htrailer⟩
    have hsnap : (⟨0x55, 0x41, 0x54, 0x43, 0x3A⟩ : HdrSnap) = s.finished.hdrSnap := hdone.hdrSnap.symm
    rw [exec_completeMessage_ok hopen (by omega) hspace, hsnap]
    rfl

/-! The frame sent. -/

/-- Everything `GET_SEND_PACKET` can do where the frame lies in the buffer (R116). -/
theorem exec_getSendPacket_eq {s : State} (h : s.hdrOff.toNat + s.expectedLen.toNat ≤ s.capacity) (max : U16) :
    exec (.getSendPacket max) s = s.answer do
      raiseIf (s.packetComplete = false) .packageNotComplete
      raiseIf (max.toNat < s.expectedLen.toNat) .noEnoughSpace
      return s.reply s.expectedLen (s.bytes s.hdrOff.toNat (s.hdrOff.toNat + s.expectedLen.toNat)) := by
  refine congrArg s.answer (Cmd.bind_congr fun _ _ => Cmd.bind_congr fun _ _ => ?_)
  rw [State.memBytes_ok (.inr h), Cmd.ok_bind]

/-- Settles O30: in a state with the invariants a complete frame lies in the buffer. -/
theorem getSendPacketCopiesTheFrame : Obligations.GetSendPacketCopiesTheFrame := by
  intro s max h
  refine ⟨fun hopen => ?_, fun hcomplete hmax => ?_, fun hcomplete hmax =>
    ⟨s.bytes s.hdrOff.toNat (s.hdrOff.toNat + s.expectedLen.toNat), ?_, ?_, fun i hi => ?_⟩⟩
  · rw [exec, execGetSendPacket, raiseIf_pos hopen, Cmd.error_bind, State.answer_raise]
  · rw [exec_getSendPacket_eq (h.frameInBuffer hcomplete), raiseIf_neg (by simp [hcomplete]), Cmd.ok_bind,
      raiseIf_pos hmax, Cmd.error_bind, State.answer_raise]
  · rw [exec_getSendPacket_eq (h.frameInBuffer hcomplete), raiseIf_neg (by simp [hcomplete]), Cmd.ok_bind,
      raiseIf_neg (Nat.not_lt.mpr hmax), Cmd.ok_bind, Cmd.pure_eq, State.answer_ok]
    rfl
  · rw [State.length_bytes, Nat.add_sub_cancel_left]
  · rw [State.getD_bytes s (by omega)]

/-! The composites. -/

/-- The three checks of a composite, in order (R117). -/
theorem generate_fails (s : State) (type src dst : Byte) :
    (s.lock = true → generate type src dst s = .error (.raise .bufferLocked)) ∧
    (s.lock = false → s.capacity < 12 → generate type src dst s = .error (.raise .notInitialized)) ∧
    (s.lock = false → 12 ≤ s.capacity → s.capacity < 14 →
      generate type src dst s = .error (.raise .noEnoughSpace)) := by
  rw [generate_eq]
  refine ⟨fun hlock => ?_, fun hlock h12 => ?_, fun hlock h12 h14 => ?_⟩
  · rw [lockCheck_locked hlock, Cmd.error_bind]
  · rw [lockCheck_unlocked hlock, Cmd.ok_bind, raiseIf_pos h12, Cmd.error_bind]
  · rw [lockCheck_unlocked hlock, Cmd.ok_bind, raiseIf_neg (Nat.not_lt.mpr h12), Cmd.ok_bind, raiseIf_pos h14,
      Cmd.error_bind]

/-- The first 12 bytes of a control frame are its fixed part (R117). -/
theorem Memory.readRange_controlFrame {m : Memory} (h : m.wf = true) (type src dst : Byte) :
    (m.controlFrame type src dst).readRange 0 12 = fixedPart 14 src dst type 0 :=
  (Memory.readRange_sealed (Memory.wf_writeAll h ..) (Nat.le_refl 12)).trans (Memory.readRange_writeAll_self h 0 _)

/-- A control frame is 14 bytes long: it leaves every byte behind them (R117). -/
theorem Memory.read_controlFrame_above {m : Memory} (h : m.wf = true) (type src dst : Byte) {a : Nat} (ha : 14 ≤ a) :
    (m.controlFrame type src dst).read a = m.read a := by
  rw [Memory.controlFrame, Memory.sealed, Memory.read_writeAll (Memory.wf_writeAll h ..), le16_length,
    if_neg (by omega), Memory.read_writeAll h, length_fixedPart, if_neg (by omega)]

/-- Settles O31: the composite leaves a completed build of the control frame. -/
theorem generateBuildsAControlFrame : Obligations.GenerateBuildsAControlFrame := by
  intro s src dst i type hbuf hi
  have hexec : exec i s = s.answer (generate type src dst s) := by
    obtain ⟨rfl, rfl⟩ | ⟨rfl, rfl⟩ := hi
    · rfl
    · rfl
  obtain ⟨hlocked, hsmall, hshort⟩ := generate_fails s type src dst
  rw [hexec]
  refine ⟨fun hlock => ?_, fun hlock h12 => ?_, fun hlock h12 h14 => ?_, fun hlock hcap => ?_⟩
  · rw [hlocked hlock, State.answer_raise]
  · rw [hsmall hlock h12, State.answer_raise]
  · rw [hshort hlock h12 h14, State.answer_raise]
  · have hfixed := Memory.readRange_controlFrame hbuf.1 type src dst
    refine ⟨s.buf.controlFrame type src dst, ?_, ?_, fun a ha => ?_, fun a ha =>
      Memory.read_controlFrame_above hbuf.1 type src dst ha⟩
    · rw [generate_ok hlock hcap, State.answer_ok]
      rfl
    · have htrailer := (State.buildCompleted_generated hbuf hcap type src dst).u16_trailer
      rw [State.generated_buf, hfixed] at htrailer
      exact htrailer
    · have hbyte := Memory.getD_readRange (s.buf.controlFrame type src dst) 0 12 a 0 ha
      rw [hfixed, Nat.zero_add] at hbyte
      exact hbyte.symm

end Sys2Proof.Machine
end

section
/-! How a command that writes can end (R97, R202): with its effect, or with a code of its row of the failure matrix; and
the phases it leads to (R122). -/

namespace Sys2Proof.Machine

/-- Whenever the pseudocode `c` returns, the state it has written has `P`; whenever it raises, its code is one of
`codes`. -/
structure Ends (codes : List ResultCode) (P : State → Prop) (c : Cmd Done) : Prop where
  leaves : Leaves c P
  raises : ∀ code, c = .error (.raise code) → code ∈ codes

/-! One rule per shape of a command's pseudocode. -/

namespace Ends
variable {codes : List ResultCode} {P : State → Prop} {s : State}

/-- `return`. -/
theorem ret {d : Done} (h : P d.state) : Ends codes P (.ok d) := ⟨.ret h, fun _ h => nomatch h⟩

/-- A part in front that gives a value. -/
theorem observe {α} {x : Cmd α} {f : α → Cmd Done} (hx : ∀ code, x = .error (.raise code) → code ∈ codes)
    (hf : ∀ a, x = .ok a → Ends codes P (f a)) : Ends codes P (x >>= f) := by
  refine ⟨.observe fun a ha => (hf a ha).leaves, fun code h => ?_⟩
  obtain hraise | ⟨a, ha, hraise⟩ := Cmd.bind_eq_error.mp h
  · exact hx code hraise
  · exact (hf a ha).raises code hraise

/-- A check in front. -/
theorem check {p : Prop} [Decidable p] {code : ResultCode} {f : Unit → Cmd Done} (hcode : code ∈ codes)
    (hf : ¬p → Ends codes P (f ())) : Ends codes P (raiseIf p code >>= f) := by
  refine observe (fun code' h => ?_) fun _ h => hf (raiseIf_eq_ok.mp h)
  obtain ⟨-, hraise⟩ := raiseIf_eq_error.mp h
  cases hraise
  exact hcode

/-- An access in front: it raises nothing. -/
theorem reach {a : Nat} {f : Unit → Cmd Done} (hf : a < s.capacity → Ends codes P (f ())) :
    Ends codes P (s.reach a >>= f) := by
  refine observe (fun code h => ?_) fun _ h => hf (State.reach_eq_ok.mp h)
  unfold State.reach at h
  split at h <;> cases h

/-- The lock check in front (R203). -/
theorem unlocked {f : Unit → Cmd Done} (hcode : .bufferLocked ∈ codes) (hf : s.lock = false → Ends codes P (f ())) :
    Ends codes P (lockCheck s >>= f) :=
  check hcode fun h => hf (Bool.eq_false_iff.mpr h)

/-- The builder check in front (R119). -/
theorem built {f : Unit → Cmd Done} (hcodes : [.bufferLocked, .packageAlreadyComplete, .invalidState] ⊆ codes)
    (hf : s.buildOpen → Ends codes P (f ())) : Ends codes P (builderCheck s >>= f) := by
  refine observe (fun code h => ?_) fun _ h => hf (builderCheck_eq_ok.mp h)
  rw [builderCheck_eq] at h
  refine hcodes ?_
  split_ifs at h <;> cases h <;> decide

theorem patchTypeByte {i : Instr} {patch : Byte → Byte} (hi : isAckSetter i = true)
    (hpatch : ∀ type, patch type = typeAfter type i) :
    Ends [.bufferLocked, .packageAlreadyComplete, .invalidState] (Effect i s) (Machine.patchTypeByte patch s) := by
  rw [patchTypeByte_eq, hpatch]
  exact built (List.Subset.refl _) fun hopen => reach fun hcap => ret (.patch hi hopen hcap)

theorem generate {type src dst : Byte} (hP : s.lock = false → 14 ≤ s.capacity → P (s.generated type src dst)) :
    Ends [.bufferLocked, .notInitialized, .noEnoughSpace] P (Machine.generate type src dst s) := by
  rw [generate_eq]
  exact unlocked (by decide) fun hlock => check (by decide) fun _ => check (by decide) fun hcap =>
    ret (hP hlock (Nat.not_lt.mp hcap))

end Ends

open Ends in
/-- Every command that writes ends in `State.answer`, on pseudocode that leaves its effect or raises a code of its row
of the failure matrix (R202). -/
theorem exec_ends {i : Instr} (hi : isQuery i = false) (s : State) :
    ∃ c, exec i s = s.answer c ∧ Ends (failureCodes i) (Effect i s) c := by
  cases i with
  | resetBuffer => exact ⟨_, rfl, ret .reset⟩
  | lockBuffer => exact ⟨_, rfl, unlocked (by decide) fun hlock => ret (.lock hlock)⟩
  | unlockBuffer => exact ⟨_, rfl, ret .unlock⟩
  | startNewMessage src dst =>
    exact ⟨_, exec_startNewMessage_eq src dst s, unlocked (by simp [failureCodes]) fun hlock =>
      check (by simp [failureCodes]) fun hcap => ret (.start hlock (Nat.not_lt.mp hcap))⟩
  | addAckRequest => exact ⟨_, rfl, Ends.patchTypeByte rfl fun _ => rfl⟩
  | addAckStatus => exact ⟨_, rfl, Ends.patchTypeByte rfl fun _ => rfl⟩
  | addNackStatus => exact ⟨_, rfl, Ends.patchTypeByte rfl fun _ => rfl⟩
  | addData type n payload =>
    exact ⟨_, exec_addData_eq type n payload s, built (by simp [failureCodes]) fun hopen =>
      check (by simp [failureCodes]) fun hspace => reach fun hpayload => reach fun hcount =>
        ret (.addData hopen (Nat.not_lt.mp hspace) (by omega) hcount)⟩
  | completeMessage =>
    exact ⟨_, exec_completeMessage_eq s, built (by decide) fun hopen => check (by decide) fun hspace =>
      reach fun hcap => ret (.complete hopen (Nat.not_lt.mp hspace) hcap)⟩
  | generateAckMessage src dst => exact ⟨_, rfl, Ends.generate .generateAck⟩
  | generateNackMessage src dst => exact ⟨_, rfl, Ends.generate .generateNack⟩
  | addReceivedBytes n bytes =>
    refine ⟨_, exec_addReceivedBytes_eq n bytes s, unlocked (by simp [failureCodes]) fun hlock =>
      check (by simp [failureCodes]) fun htx => check (by simp [failureCodes]) fun hspace =>
        observe (fun code h => absurd h State.memWriteBytes_no_raise) fun w hw =>
          ret (.receive hlock (Bool.eq_false_iff.mpr htx) (Nat.not_lt.mp hspace) ?_)⟩
    obtain ⟨hempty | hbytes, -⟩ := State.memWriteBytes_eq_ok.mp hw
    · omega
    · exact hbytes
  | _ => cases hi

/-- `OK` is no failure of any command (R97). -/
theorem ok_notMem_failureCodes (i : Instr) : .ok ∉ failureCodes i := by
  cases i <;> simp [failureCodes]

theorem State.lastOk_respond (s : State) (r : Response) : (s.respond r).lastOk = (r.status == .ok) := by
  simp [State.lastOk]

/-- A command that writes and answers `OK` has completed with its effect. -/
theorem effect_of_lastOk {i : Instr} {s t : State} (hi : isQuery i = false) (hexec : exec i s = .next t)
    (hok : t.lastOk = true) : ∃ u value data, Effect i s u ∧ t = u.respond ⟨.ok, value, data⟩ := by
  obtain ⟨c, hc, hends⟩ := exec_ends hi s
  rw [hc] at hexec
  obtain ⟨d, hd, rfl⟩ | ⟨code, hcode, rfl⟩ := State.answer_eq_next.mp hexec
  · exact ⟨d.state, d.value, d.data, hends.leaves d hd, rfl⟩
  · rw [State.fail_eq_respond, State.lastOk_respond, beq_iff_eq] at hok
    exact absurd (hok ▸ hends.raises code hcode) (ok_notMem_failureCodes i)

/-- A command that does not answer `OK` has changed nothing but the responses (R205). -/
theorem eq_fail_of_not_lastOk {i : Instr} {s t : State} (hexec : exec i s = .next t) (hfail : t.lastOk = false) :
    ∃ code, t = s.fail code := by
  obtain ⟨code, rfl⟩ | ⟨u, value, data, -, rfl⟩ := effect_of_exec hexec
  · exact ⟨code, rfl⟩
  · rw [State.lastOk_respond] at hfail
    cases hfail

/-! What a completed command was issued in, and what it has written, read off its effect. -/

namespace Effect
variable {s u : State}

theorem of_start {src dst : Byte} (h : Effect (.startNewMessage src dst) s u) :
    s.lock = false ∧ u = s.opened src dst := by
  cases h with
  | start hlock => exact ⟨hlock, rfl⟩
  | query h | patch h => cases h

theorem of_generateAck {src dst : Byte} (h : Effect (.generateAckMessage src dst) s u) :
    s.lock = false ∧ u = s.generated 0x11 src dst := by
  cases h with
  | generateAck hlock => exact ⟨hlock, rfl⟩
  | query h | patch h => cases h

theorem of_generateNack {src dst : Byte} (h : Effect (.generateNackMessage src dst) s u) :
    s.lock = false ∧ u = s.generated 0x12 src dst := by
  cases h with
  | generateNack hlock => exact ⟨hlock, rfl⟩
  | query h | patch h => cases h

theorem of_isAckSetter {i : Instr} (hi : isAckSetter i = true) (h : Effect i s u) :
    s.buildOpen ∧ u = s.patched i := by
  cases h with
  | patch _ hopen => exact ⟨hopen, rfl⟩
  | query h => cases h.symm.trans (isQuery_of_isAckSetter hi)
  | _ => cases hi

theorem of_addData {type : Byte} {n : U16} {payload : List Byte} (h : Effect (.addData type n payload) s u) :
    s.buildOpen ∧ u = s.withItem type n payload := by
  cases h with
  | addData hopen => exact ⟨hopen, rfl⟩
  | query h | patch h => cases h

theorem of_complete (h : Effect .completeMessage s u) :
    s.buildOpen ∧ s.cursor.toNat + 2 ≤ s.capacity ∧ u = s.finished := by
  cases h with
  | complete hopen hspace => exact ⟨hopen, hspace, rfl⟩
  | query h | patch h => cases h

theorem of_reset (h : Effect .resetBuffer s u) : u = s.cleared := by
  cases h with
  | reset => rfl
  | query h | patch h => cases h

theorem of_lock (h : Effect .lockBuffer s u) : u = { s with lock := true } := by
  cases h with
  | lock => rfl
  | query h | patch h => cases h

theorem of_unlock (h : Effect .unlockBuffer s u) : u = { s with lock := false } := by
  cases h with
  | unlock => rfl
  | query h | patch h => cases h

end Effect

/-! The phases (R34). -/

/-- The row `TX_DONE` of R34's table. -/
theorem State.phase_eq_txDone_iff (s : State) :
    s.phase = .txDone ↔ s.packetComplete = true ∧ s.txStarted = true := by
  unfold State.phase
  split <;> simp [*]

/-- A build open and unlocked is the phase `TX_BUILD` (R34). -/
theorem State.buildOpen.phase {s : State} (h : s.buildOpen) : s.phase = .txBuild := s.phase_eq_txBuild_iff.mpr h.2

/-- Settles O36: where a command that writes has completed, its effect says where it was issued and where it leads. -/
theorem transmitPhasesMoveAsTabled : Obligations.TransmitPhasesMoveAsTabled := by
  intro i s t _ hexec
  refine ⟨fun hfail => ?failed, fun hok => ⟨fun hi => ?start, fun hi => ?generate, fun hi => ?build,
    fun hi => ?complete, fun hi => ?query, fun hi => ?reset, fun hi => ?lock, fun hi => ?unlock⟩⟩
  case failed =>
    obtain ⟨code, rfl⟩ := eq_fail_of_not_lastOk hexec hfail
    exact ⟨rfl, rfl⟩
  case query =>
    obtain ⟨r, rfl⟩ := queriesOnlyAnswer i s t hi hexec
    exact ⟨rfl, rfl⟩
  case start =>
    cases i with
    | startNewMessage src dst =>
      obtain ⟨u, value, data, heffect, rfl⟩ := effect_of_lastOk rfl hexec hok
      obtain ⟨hlock, rfl⟩ := heffect.of_start
      exact ⟨hlock, rfl, hlock⟩
    | _ => cases hi
  case generate =>
    cases i with
    | generateAckMessage src dst =>
      obtain ⟨u, value, data, heffect, rfl⟩ := effect_of_lastOk rfl hexec hok
      obtain ⟨hlock, rfl⟩ := heffect.of_generateAck
      exact ⟨hlock, rfl, rfl⟩
    | generateNackMessage src dst =>
      obtain ⟨u, value, data, heffect, rfl⟩ := effect_of_lastOk rfl hexec hok
      obtain ⟨hlock, rfl⟩ := heffect.of_generateNack
      exact ⟨hlock, rfl, rfl⟩
    | _ => cases hi
  case build =>
    obtain hsetter | hdata := hi
    · obtain ⟨u, value, data, heffect, rfl⟩ := effect_of_lastOk (isQuery_of_isAckSetter hsetter) hexec hok
      obtain ⟨hopen, rfl⟩ := heffect.of_isAckSetter hsetter
      exact ⟨hopen.phase, hopen.1, hopen.phase, hopen.1⟩
    · cases i with
      | addData type n payload =>
        obtain ⟨u, value, data, heffect, rfl⟩ := effect_of_lastOk rfl hexec hok
        obtain ⟨hopen, rfl⟩ := heffect.of_addData
        exact ⟨hopen.phase, hopen.1, hopen.phase, hopen.1⟩
      | _ => cases hdata
  case complete =>
    obtain rfl := of_decide_eq_true hi
    obtain ⟨u, value, data, heffect, rfl⟩ := effect_of_lastOk rfl hexec hok
    obtain ⟨hopen, -, rfl⟩ := heffect.of_complete
    exact ⟨hopen.phase, hopen.1, (State.phase_eq_txDone_iff _).mpr ⟨rfl, hopen.2.2⟩, rfl⟩
  case reset =>
    obtain rfl := of_decide_eq_true hi
    obtain ⟨u, value, data, heffect, rfl⟩ := effect_of_lastOk rfl hexec hok
    obtain rfl := heffect.of_reset
    exact ⟨rfl, rfl⟩
  case lock =>
    obtain rfl := hi
    obtain ⟨u, value, data, heffect, rfl⟩ := effect_of_lastOk rfl hexec hok
    obtain rfl := heffect.of_lock
    exact ⟨rfl, rfl⟩
  case unlock =>
    obtain rfl := hi
    obtain ⟨u, value, data, heffect, rfl⟩ := effect_of_lastOk rfl hexec hok
    obtain rfl := heffect.of_unlock
    exact ⟨rfl, rfl⟩

end Sys2Proof.Machine
end

section
/-! The frame of some items as a byte string (R70 to R80): its fields, its walk, and that it is well formed. -/

namespace Sys2Proof.Machine

/-! Fields of a byte string. -/

/-- A field behind a front part. -/
theorem u16At_append_right (xs ys : List Byte) (i : Nat) : u16At (xs ++ ys) (xs.length + i) = u16At ys i := by
  rw [u16At, Nat.add_assoc, List.getD_append_right _ _ _ _ (by omega), List.getD_append_right _ _ _ _ (by omega),
    Nat.add_sub_cancel_left, Nat.add_sub_cancel_left, u16At]

theorem toNat_ofNat_of_lt {n : Nat} (h : n < 65536) : (BitVec.ofNat 16 n).toNat = n := Nat.mod_eq_of_lt h

/-! The frame. -/

section
variable (src dst type : Byte) (items : List Item)

theorem frameLength_eq : frameLength items = 14 + (itemsToBytes items).length := rfl

theorem length_frameBody : (frameBody src dst type items).length = 12 + (itemsToBytes items).length := by
  rw [frameBody, List.length_append, length_fixedPart]

theorem length_frameOf : (frameOf src dst type items).length = frameLength items := by
  rw [frameOf, List.length_append, length_frameBody, le16_length, frameLength_eq]
  omega

theorem take_frameOf : (frameOf src dst type items).take 5 = magic := rfl

theorem u16At_lengthField_frameOf : u16At (frameOf src dst type items) 5 = BitVec.ofNat 16 (frameLength items) :=
  u16_le16 _

theorem u16At_countField_frameOf : u16At (frameOf src dst type items) 10 = BitVec.ofNat 16 items.length :=
  u16_le16 _

/-- The trailer is the checksum of every byte before it (R78). -/
theorem u16At_trailer_frameOf :
    u16At (frameOf src dst type items) (frameLength items - 2) =
      crc16Of ((frameOf src dst type items).take (frameLength items - 2)) := by
  have hlen : frameLength items - 2 = (frameBody src dst type items).length := by
    rw [length_frameBody, frameLength_eq]
    omega
  have htrailer := u16At_append_right (frameBody src dst type items)
    (le16 (crc16Of (frameBody src dst type items))) 0
  rw [Nat.add_zero] at htrailer
  rw [hlen, frameOf, List.take_left, htrailer]
  exact u16_le16 _

end

theorem itemsToBytes_cons (it : Item) (items : List Item) :
    itemsToBytes (it :: items) = it.toBytes ++ itemsToBytes items :=
  List.flatMap_cons

/-- A list of items shorter than the counter is counted by it. -/
theorem length_lt_of_frameLength {items : List Item} (h : frameLength items < 65536) : items.length < 65536 := by
  have hitems := length_le_length_itemsToBytes items
  rw [frameLength_eq] at h
  omega

/-- The walk over items that stand behind `front` ends behind them (R77). -/
theorem walkEnd_items {items : List Item} (hsmall : (itemsToBytes items).length < 65536) (front rest : List Byte) :
    walkEnd (front ++ (itemsToBytes items ++ rest)) items.length front.length =
      front.length + (itemsToBytes items).length := by
  induction items generalizing front with
  | nil => rfl
  | cons it items ih =>
    rw [itemsToBytes_cons, List.length_append, Item.length_toBytes] at hsmall
    have hfield : u16At (front ++ (it.toBytes ++ itemsToBytes items ++ rest)) (front.length + 1) =
        BitVec.ofNat 16 it.payload.length :=
      (u16At_append_right ..).trans (u16_le16 _)
    have hend : front.length + 3 + it.payload.length = (front ++ it.toBytes).length := by
      rw [List.length_append, Item.length_toBytes]
      omega
    rw [List.length_cons, walkEnd, itemsToBytes_cons, hfield, toNat_ofNat_of_lt (by omega), itemHdrLen, hend,
      List.append_assoc, ← List.append_assoc, ih (by omega), List.length_append, List.length_append, Nat.add_assoc]

/-- The frame of some items is well formed, if its length fits its length field (R80). -/
theorem wellFormedFrame_frameOf (src dst type : Byte) {items : List Item} (h : frameLength items < 65536) :
    WellFormedFrame (frameOf src dst type items) := by
  have hbody := length_frameBody src dst type items
  have hlen := frameLength_eq items
  refine ⟨⟨?_, take_frameOf src dst type items, ?_, ?_⟩, ?_⟩
  · rw [length_frameOf, hlen]
    exact Nat.le_add_right ..
  · rw [u16At_lengthField_frameOf, length_frameOf, toNat_ofNat_of_lt h]
  · rw [length_frameOf]
    exact u16At_trailer_frameOf src dst type items
  · rw [u16At_countField_frameOf, toNat_ofNat_of_lt (length_lt_of_frameLength h), length_frameOf, frameOf, frameBody,
      List.append_assoc]
    refine (walkEnd_items (by omega) _ _).trans ?_
    rw [length_fixedPart, hlen, Nat.add_comm 14, Nat.add_comm 12]
    rfl

end Sys2Proof.Machine
end

section
/-! A completed build (R120): the buffer holds the frame of the items that were added. -/

namespace Sys2Proof.Machine

/-! The type byte of a build. -/

/-- One more builder command, on a type byte made of the kind, the request bit and a status code. -/
theorem typeAfter_eq (i : Instr) (request : Bool) {code : Byte} (hcode : code = 0 ∨ code = 1 ∨ code = 2) :
    typeAfter (0x10 ||| ((if request then 4 else 0) ||| code)) i =
      0x10 ||| ((if request || Instr.addAckRequest = i then 4 else 0) ||| statusAfter code i) := by
  cases i with
  | addAckRequest | addAckStatus | addNackStatus => obtain rfl | rfl | rfl := hcode <;> cases request <;> rfl
  | _ => simp [typeAfter, statusAfter]

theorem statusAfter_mem (i : Instr) {code : Byte} (hcode : code = 0 ∨ code = 1 ∨ code = 2) :
    statusAfter code i = 0 ∨ statusAfter code i = 1 ∨ statusAfter code i = 2 := by
  unfold statusAfter
  split_ifs
  · exact .inr (.inl rfl)
  · exact .inr (.inr rfl)
  · exact hcode

/-- A sequence of builder commands keeps the kind, sets the request bit for good and overwrites the status code
(R111 to R113). -/
theorem foldl_typeAfter (ops : List Instr) (request : Bool) {code : Byte} (hcode : code = 0 ∨ code = 1 ∨ code = 2) :
    ops.foldl typeAfter (0x10 ||| ((if request then 4 else 0) ||| code)) =
      0x10 ||| ((if request = true ∨ .addAckRequest ∈ ops then 4 else 0) ||| ops.foldl statusAfter code) := by
  induction ops generalizing request code with
  | nil => simp
  | cons i ops ih =>
    rw [List.foldl_cons, typeAfter_eq i request hcode, ih _ (statusAfter_mem i hcode), List.foldl_cons]
    simp only [Bool.or_eq_true, decide_eq_true_eq, List.mem_cons, or_assoc]

/-- The builder commands leave the type byte of their sequence (R120). -/
theorem foldl_typeAfter_freshTypeByte (ops : List Instr) : ops.foldl typeAfter freshTypeByte = typeByteOf ops := by
  have h := foldl_typeAfter ops false (.inl rfl : (0 : Byte) = 0 ∨ (0 : Byte) = 1 ∨ (0 : Byte) = 2)
  simp only [Bool.false_eq_true, false_or, if_false] at h
  exact h

/-! The frame in the buffer. -/

/-- A completion turns an open build into the frame of its items (R115). -/
theorem State.BuildHolds.finished_bytes {s : State} {src dst type : Byte} {items : List Item}
    (h : s.BuildHolds src dst type items) :
    s.finished.buf.readRange 0 (frameLength items) = frameOf src dst type items := by
  have hwf := h.build.bufferOk.1
  have hcursor := h.build.fixedPart
  have hend : s.cursor.toNat + 2 = frameLength items := by
    rw [h.cursor, frameLength_eq]
    omega
  obtain ⟨m, hm⟩ : ∃ m, m = s.buf.writeAll 5 (le16 (BitVec.ofNat 16 (s.cursor.toNat + 2))) := ⟨_, rfl⟩
  have hmwf : m.wf = true := hm ▸ Memory.wf_writeAll hwf ..
  have hbuild : s.buf.readRange 0 s.cursor.toNat = fixedPart 0 src dst type items.length ++ itemsToBytes items := by
    have hsplit := Memory.readRange_add s.buf 0 12 (s.cursor.toNat - 12)
    rw [Nat.add_sub_cancel' hcursor] at hsplit
    exact hsplit.trans (congrArg₂ _ h.fixedBytes h.itemBytes)
  have hbody : m.readRange 0 s.cursor.toNat = frameBody src dst type items := by
    rw [hm, Memory.readRange_writeAll_inside hwf (by rw [le16_length]; omega), hbuild, hend]
    rfl
  have hbuf : s.finished.buf = m.writeAll s.cursor.toNat (le16 (crc16Of (frameBody src dst type items))) := by
    rw [← hbody, hm]
    rfl
  rw [← hend, hbuf, Memory.readRange_add, Memory.readRange_writeAll_disjoint hmwf (by omega), hbody, Nat.zero_add]
  exact congrArg (frameBody src dst type items ++ ·) (Memory.readRange_writeAll_self hmwf ..)

/-! Runs. -/

/-- A run of two lists is the run of the second after the first. -/
theorem runOk_append {is : List Instr} {s t : State} (h : runOk is s = some t) (js : List Instr) :
    runOk (is ++ js) s = runOk js t := by
  induction is generalizing s with
  | nil =>
    cases h
    rfl
  | cons i is ih =>
    rw [List.cons_append]
    rw [runOk] at h ⊢
    split at h
    · split at h
      next hok => rw [if_pos hok, ih h]
      next => cases h
    · cases h
    · cases h

/-- A run keeps the capacity (R9). -/
theorem capacity_of_runOk {is : List Instr} {s t : State} (h : runOk is s = some t) : t.capacity = s.capacity := by
  induction is generalizing s with
  | nil =>
    cases h
    rfl
  | cons i is ih =>
    rw [runOk] at h
    split at h
    next u hexec =>
      split at h
      · rw [ih h, State.capacity, (respondedOnce_of_exec hexec).1, State.capacity]
      · cases h
    · cases h
    · cases h

/-- Settles O34: the sequence leaves an open build of its items (V7), which the completion turns into their frame. -/
theorem builderProducesTheWellFormedFrame : Obligations.BuilderProducesTheWellFormedFrame := by
  intro s src dst ops hbuf hlock hops hfits
  have hlen := frameLength_eq (itemsOf ops)
  have hcap : 12 ≤ s.capacity := by omega
  have hstart := (State.buildHolds_opened hbuf hlock hcap src dst).respond ⟨.ok, 0, []⟩
  obtain ⟨t, hrun, ht⟩ := hstart.runOk_buildOps hops (show _ ≤ s.capacity by rw [List.nil_append]; omega)
  rw [foldl_typeAfter_freshTypeByte, List.nil_append] at ht
  have htcap : t.capacity = s.capacity := (capacity_of_runOk hrun).trans (s.opened_capacity src dst)
  have hspace : 12 + (itemsToBytes (itemsOf ops)).length + 2 ≤ t.capacity := by omega
  have hcursor : s.capacity < 65536 := s.capacity_lt
  have hdone := ht.build.finished (by rw [ht.cursor]; exact hspace)
  have hend : t.finished.cursor.toNat = frameLength (itemsOf ops) := by
    rw [hdone.cursor, ht.cursor, hlen]
    omega
  refine ⟨t.finished.respond ⟨.ok, BitVec.ofNat 16 (t.cursor.toNat + 2), []⟩, ?_, ?_, hend,
    wellFormedFrame_frameOf src dst _ (by omega)⟩
  · rw [runOk_cons (exec_startNewMessage_ok hlock hcap src dst), runOk_append hrun,
      runOk_cons (ht.exec_completeMessage hspace), runOk_nil]
  · rw [State.respond_cursor, hend]
    exact ht.finished_bytes

end Sys2Proof.Machine
end

section
/-! Reading a frame back (R142 to R148): the items of a frame in the buffer, one after the other. -/

namespace Sys2Proof.Machine

/-- A block read of two parts reads each part behind the other. -/
theorem Memory.readRange_eq_append_iff {m : Memory} {a : Nat} {xs ys : List Byte} :
    m.readRange a (xs ++ ys).length = xs ++ ys ↔
      m.readRange a xs.length = xs ∧ m.readRange (a + xs.length) ys.length = ys := by
  rw [List.length_append, Memory.readRange_add]
  refine ⟨fun h => List.append_inj h (Memory.length_readRange ..), fun ⟨hx, hy⟩ => ?_⟩
  rw [hx, hy]

/-- `items` stand in the item section of `s` from offset `p` on (R77, R143). -/
structure State.ItemsAt (s : State) (p : Nat) (items : List Item) : Prop where
  bytes : s.buf.readRange p (itemsToBytes items).length = itemsToBytes items
  fits : p + (itemsToBytes items).length ≤ s.itemsEnd

namespace State.ItemsAt
variable {s : State} {p : Nat} {it : Item} {items : List Item}

/-- The items behind the first one. -/
theorem tail (h : s.ItemsAt p (it :: items)) : s.ItemsAt (p + 3 + it.payload.length) items := by
  have hbytes := h.bytes
  have hfits := h.fits
  rw [itemsToBytes_cons, List.length_append, Item.length_toBytes] at hfits
  rw [itemsToBytes_cons, Memory.readRange_eq_append_iff, Item.length_toBytes, ← Nat.add_assoc] at hbytes
  exact ⟨hbytes.2, by omega⟩

/-- The bytes of the first item: type, length, payload (R76). -/
theorem head (h : s.ItemsAt p (it :: items)) :
    s.byteAt p = it.type ∧
      u16 (s.byteAt (p + 1)) (s.byteAt (p + 2)) = BitVec.ofNat 16 it.payload.length ∧
      s.bytes (p + 3) (p + 3 + it.payload.length) = it.payload := by
  have hbytes := h.bytes
  rw [itemsToBytes_cons, Memory.readRange_eq_append_iff] at hbytes
  obtain ⟨hheader, hpayload⟩ := Memory.readRange_eq_append_iff.mp
    (show s.buf.readRange p ((it.type :: le16 (BitVec.ofNat 16 it.payload.length)) ++ it.payload).length = _ from
      hbytes.1)
  obtain ⟨lo, hi, hle, hlen⟩ := le16_eq (BitVec.ofNat 16 it.payload.length)
  rw [hle] at hheader
  obtain ⟨htype, hlo, hhi⟩ : s.byteAt p = it.type ∧ s.byteAt (p + 1) = lo ∧ s.byteAt (p + 2) = hi := by
    simpa [Memory.readRange, State.byteAt] using hheader
  refine ⟨htype, by rw [hlo, hhi, hlen], ?_⟩
  rw [State.bytes, Nat.add_sub_cancel_left]
  exact hpayload

/-- The walk finds the first item (R144). -/
theorem itemAt_eq (h : s.ItemsAt p (it :: items)) (hend : s.itemsEnd ≤ s.capacity) :
    s.itemAt p = some (p, it.payload.length) := by
  obtain ⟨-, hlen, -⟩ := h.head
  have hfits := h.tail.fits
  have hcap := s.capacity_lt
  rw [State.itemAt, hlen, toNat_ofNat_of_lt (by omega), if_neg (by omega), if_neg (by omega)]

/-- The walk steps over `k` items (R144). -/
theorem walkFrom_eq (h : s.ItemsAt p items) (hend : s.itemsEnd ≤ s.capacity) {k : Nat} (hk : items[k]? = some it) :
    ∃ q rest, q = p + (itemsToBytes (items.take k)).length ∧ s.ItemsAt q (it :: rest) ∧
      walkFrom s k p = .ok (some (q, it.payload.length)) := by
  induction items generalizing p k with
  | nil => cases hk
  | cons first items ih =>
    cases k with
    | zero =>
      cases hk
      exact ⟨p, items, rfl, h, by rw [walkFrom_zero hend, h.itemAt_eq hend]⟩
    | succ k =>
      obtain ⟨q, rest, hq, hitem, hwalk⟩ := ih h.tail hk
      refine ⟨q, rest, ?_, hitem, ?_⟩
      · rw [hq, List.take_succ_cons, itemsToBytes_cons, List.length_append, Item.length_toBytes]
        omega
      · rw [walkFrom_succ hend, h.itemAt_eq hend]
        exact hwalk

end State.ItemsAt

/-- `s` has the invariants and its complete frame is the frame of `items`. -/
structure State.HoldsFrame (s : State) (src dst type : Byte) (items : List Item) : Prop where
  inv : s.Inv
  packetComplete : s.packetComplete = true
  expectedLen : s.expectedLen.toNat = frameLength items
  bytes : s.bytes s.hdrOff.toNat (s.hdrOff.toNat + frameLength items) = frameOf src dst type items

namespace State.HoldsFrame
variable {s : State} {src dst type : Byte} {items : List Item} (h : s.HoldsFrame src dst type items)
include h

theorem frameInBuffer : s.hdrOff.toNat + frameLength items ≤ s.capacity :=
  h.expectedLen ▸ h.inv.frameInBuffer h.packetComplete

theorem frameLength_lt : frameLength items < 65536 := h.expectedLen ▸ s.expectedLen.isLt

theorem itemsEnd_eq : s.itemsEnd = s.hdrOff.toNat + 12 + (itemsToBytes items).length := by
  rw [State.itemsEnd, h.expectedLen, frameLength_eq, trailerLen]
  omega

theorem itemsEnd_le : s.itemsEnd ≤ s.capacity := by
  have hframe := h.frameInBuffer
  rw [frameLength_eq] at hframe
  rw [h.itemsEnd_eq]
  omega

/-- A 16-bit field of the frame, in the buffer (R55). -/
theorem u16_byteAt {i : Nat} (hi : i + 1 < frameLength items) :
    u16 (s.byteAt (s.hdrOff.toNat + i)) (s.byteAt (s.hdrOff.toNat + i + 1)) = u16At (frameOf src dst type items) i := by
  rw [u16At, ← h.bytes, State.getD_bytes s (by omega), State.getD_bytes s (by omega), Nat.add_assoc]

/-- A front part of the frame, in the buffer. -/
theorem bytes_take {k : Nat} (hk : k ≤ frameLength items) :
    s.bytes s.hdrOff.toNat (s.hdrOff.toNat + k) = (frameOf src dst type items).take k := by
  rw [← h.bytes, State.bytes, State.bytes, Nat.add_sub_cancel_left, Nat.add_sub_cancel_left,
    Memory.take_readRange _ hk]

/-- The frame of some items is valid (R138). -/
theorem frameValid : s.frameValid := by
  have hlen := frameLength_eq items
  have hbody := h.bytes_take (show frameLength items - 2 ≤ frameLength items by omega)
  have htrailer := h.u16_byteAt (show frameLength items - 2 + 1 < frameLength items by omega)
  have hend : s.hdrOff.toNat + s.expectedLen.toNat - 2 = s.hdrOff.toNat + (frameLength items - 2) := by
    rw [h.expectedLen]
    omega
  have hlast : s.hdrOff.toNat + s.expectedLen.toNat - 1 = s.hdrOff.toNat + (frameLength items - 2) + 1 := by
    rw [h.expectedLen]
    omega
  refine ⟨h.packetComplete, by rw [h.expectedLen]; omega, ?_,
    (h.bytes_take (by omega)).trans (take_frameOf src dst type items)⟩
  rw [hend, hlast, htrailer, hbody]
  exact u16At_trailer_frameOf src dst type items

/-- `RequireValid()` passes on the frame of some items (R145). -/
theorem requireValid_ok : requireValid s = .ok () :=
  requireValid_eq ((validate_eq_ok_iff s h.inv.frameInBuffer).mpr h.frameValid)

/-- The count field is read as the number of the items (R142). -/
theorem frameWord_count : s.frameWord countOff = .ok (BitVec.ofNat 16 items.length) := by
  have hlen := frameLength_eq items
  have hframe := h.frameInBuffer
  have hcount := h.u16_byteAt (show 10 + 1 < frameLength items by omega)
  rw [State.frameWord, countOff, State.memRead2_ok (by omega), hcount, u16At_countField_frameOf]

/-- The items of the frame stand in its item section. -/
theorem itemsAt : s.ItemsAt (s.hdrOff.toNat + 12) items := by
  have hbytes := h.bytes
  rw [State.bytes, Nat.add_sub_cancel_left, ← length_frameOf src dst type items, frameOf, frameBody,
    Memory.readRange_eq_append_iff, Memory.readRange_eq_append_iff] at hbytes
  obtain ⟨⟨-, hitems⟩, -⟩ := hbytes
  exact ⟨hitems, h.itemsEnd_eq.ge⟩

end State.HoldsFrame

/-- Settles O48: the frame is valid, its count field counts the items, and the walk visits them in order. -/
theorem aFrameGivesItsItemsBack : Obligations.AFrameGivesItsItemsBack := by
  intro s src dst type items hinv hcomplete hlen hbytes
  have h : s.HoldsFrame src dst type items := ⟨hinv, hcomplete, hlen, hbytes⟩
  have hcount : (BitVec.ofNat 16 items.length).toNat = items.length :=
    toNat_ofNat_of_lt (length_lt_of_frameLength h.frameLength_lt)
  refine ⟨⟨_, hcount, ?_⟩, fun k it hk => ?_⟩
  · rw [exec, execGetDataCount, h.requireValid_ok, Cmd.ok_bind, h.frameWord_count, Cmd.ok_bind, Cmd.pure_eq,
      State.answer_ok]
    rfl
  · have hend := h.itemsEnd_le
    have hcap := s.capacity_lt
    obtain ⟨q, rest, hq, hitem, hwalk⟩ := h.itemsAt.walkFrom_eq hend hk
    obtain ⟨htype, -, hpayload⟩ := hitem.head
    have hfits := hitem.tail.fits
    have hindex : k.toNat < items.length := (List.getElem?_eq_some_iff.mp hk).1
    have hoff : (BitVec.ofNat 16 (q + 3)).toNat = q + 3 := toNat_ofNat_of_lt (by omega)
    have hn : (BitVec.ofNat 16 it.payload.length).toNat = it.payload.length := toNat_ofNat_of_lt (by omega)
    refine ⟨BitVec.ofNat 16 (q + 3), BitVec.ofNat 16 it.payload.length, by rw [hoff, hq], hn, ?_, fun max hmax => ?_⟩
    · rw [exec, execGetDataInfo, h.requireValid_ok, Cmd.ok_bind, h.frameWord_count, Cmd.ok_bind,
        raiseIf_neg (by omega), Cmd.ok_bind, walk, State.itemsStart, itemsOff, hwalk, Cmd.ok_bind]
      show s.answer (s.memRead1 q >>= _) = _
      rw [State.memRead1_ok (by omega), Cmd.ok_bind, htype]
      rfl
    · rw [exec, execGetData, h.requireValid_ok, Cmd.ok_bind, raiseIf_neg (Nat.not_lt.mpr hmax), Cmd.ok_bind,
        raiseIf_neg (by rw [hoff, hn, State.itemsStart, itemsOff]; omega), Cmd.ok_bind, hoff, hn,
        State.memBytes_ok (by omega), Cmd.ok_bind, hpayload, Cmd.pure_eq, State.answer_ok]
      rfl

end Sys2Proof.Machine
end

section
/-! A whole frame received at once into an empty unit, and the registers of a completed build (R115). -/

namespace Sys2Proof.Machine

/-- A chunk that fits, on an unlocked receiving unit (R130). -/
theorem exec_addReceivedBytes_ok {s : State} {n : U16} {bytes : List Byte} (hfits : InlineFits n bytes)
    (hlock : s.lock = false) (htx : s.txStarted = false) (hspace : s.cursor.toNat + n.toNat ≤ s.capacity) :
    exec (.addReceivedBytes n bytes) s = .next ((s.received n bytes).respond ⟨.ok, 0, []⟩) := by
  rw [exec_addReceivedBytes_eq, lockCheck_unlocked hlock, Cmd.ok_bind, raiseIf_neg (Bool.eq_false_iff.mp htx),
    Cmd.ok_bind, raiseIf_neg (Nat.not_lt.mpr hspace), Cmd.ok_bind,
    State.memWriteBytes_ok (.inr (by rw [hfits]; exact hspace)), Cmd.ok_bind, Cmd.pure_eq, State.answer_ok]

/-- The scan finds a header in front (R160). -/
theorem findMagic_of_take {bs : List Byte} (h : bs.take 5 = magic) : findMagic bs = some 0 := by
  cases bs with
  | nil => cases h
  | cons b rest => rw [findMagic_cons, if_pos h]

/-- A header at the start of an unparsed buffer is located there (R131). -/
theorem State.withHeader_of_front {s : State} (hheader : s.headerPresent = false) (h5 : 5 ≤ s.cursor.toNat)
    (hmagic : s.bytes 0 5 = magic) :
    s.withHeader = { s with headerPresent := true, hdrOff := 0, hdrSnap := .ofBytes magic } := by
  have hfound : findMagic (s.bytes 0 s.cursor.toNat) = some 0 := by
    refine findMagic_of_take ?_
    rw [State.bytes, Nat.sub_zero, Memory.take_readRange _ h5]
    exact hmagic
  rw [State.withHeader, if_neg (by simp [hheader]), hfound]
  simp only [Nat.zero_add, hmagic]
  rfl

/-- A buffer that holds a whole frame at its start, nothing parsed yet, is parsed to its end (R131, R135, R136). -/
theorem State.parsed_of_wholeFrame {s : State} (hheader : s.headerPresent = false) (hlength : s.lenValid = false)
    (h7 : 7 ≤ s.cursor.toNat) (hmagic : s.bytes 0 5 = magic) (hfield : u16 (s.byteAt 5) (s.byteAt 6) = s.cursor) :
    completeFrame s.withHeader.withLength =
      { s with
        headerPresent := true, packetComplete := true, expectedLen := s.cursor, lenValid := true, hdrOff := 0
        hdrSnap := .ofBytes magic } := by
  have hread : s.withHeader.withLength =
      { s with
        headerPresent := true, expectedLen := s.cursor, lenValid := true, hdrOff := 0, hdrSnap := .ofBytes magic } := by
    rw [State.withHeader_of_front hheader (by omega) hmagic, State.withLength, if_pos ⟨rfl, hlength, h7⟩, ← hfield]
    rfl
  rw [hread, completeFrame, if_pos ⟨rfl, rfl, (Nat.zero_add _).le⟩]

/-- The valid bytes of one buffer, received into an empty one, stand there as they were. -/
theorem State.byteAt_appended_of_empty {r : State} (hwf : r.buf.wf = true) (hempty : r.cursor.toNat = 0) (s : State)
    {a : Nat} (ha : a < s.cursor.toNat) :
    (r.appended s.cursor (s.bytes 0 s.cursor.toNat)).byteAt a = s.byteAt a := by
  rw [State.byteAt, State.appended, hempty, Memory.read_writeAll hwf, if_pos (by rw [State.length_bytes]; omega),
    Nat.sub_zero, State.getD_bytes s ha, Nat.zero_add]

/-- The frame of a completed build, received into an empty unit, is parsed to its end (R131, R135, R136). -/
theorem State.BuildCompleted.received_eq {s r : State} {m : Memory} {n : Nat} (h : s.BuildCompleted m n)
    (hwf : r.buf.wf = true) (hempty : r.cursor.toNat = 0) (hheader : r.headerPresent = false)
    (hlength : r.lenValid = false) :
    r.received s.cursor (s.bytes 0 s.cursor.toNat) =
      { r.appended s.cursor (s.bytes 0 s.cursor.toNat) with
        cursor := s.cursor, headerPresent := true, packetComplete := true, expectedLen := s.cursor, lenValid := true
        hdrOff := 0, hdrSnap := .ofBytes Machine.magic } := by
  have hn := h.fixedPart
  have hcursor := h.cursor
  have hend : (r.appended s.cursor (s.bytes 0 s.cursor.toNat)).cursor = s.cursor := by
    simp only [State.appended, hempty, Nat.zero_add, BitVec.ofNat_toNat, BitVec.setWidth_eq]
  have hmagic : (r.appended s.cursor (s.bytes 0 s.cursor.toNat)).bytes 0 5 = Machine.magic :=
    (Memory.readRange_congr fun a _ ha => State.byteAt_appended_of_empty hwf hempty s (by omega)).trans h.bytes_magic
  have hfield := h.u16_lengthField.trans hend.symm
  rw [← State.byteAt, ← State.byteAt, ← State.byteAt_appended_of_empty hwf hempty s (by omega),
    ← State.byteAt_appended_of_empty hwf hempty s (by omega)] at hfield
  have hparsed := State.parsed_of_wholeFrame (s := r.appended s.cursor (s.bytes 0 s.cursor.toNat)) hheader hlength
    (by rw [hend]; omega) hmagic hfield
  rw [State.received, hparsed, hend]

/-- Settles O35: the frame is received into the same bytes, and parsed to the registers the completion has set. -/
theorem completedBuildLooksReceived : Obligations.CompletedBuildLooksReceived := by
  intro s t contents h hexec hok hwf _
  obtain ⟨u, value, data, heffect, rfl⟩ := effect_of_lastOk rfl hexec hok
  obtain ⟨hopen, hspace, hu⟩ := heffect.of_complete
  have hdone := (h.buildInProgress hopen).finished hspace
  have hcap : u.capacity = s.capacity := by rw [hu, State.capacity, State.finished, State.capacity]
  rw [← hu] at hdone
  have hlen : (u.bytes 0 u.cursor.toNat).length = u.cursor.toNat := by rw [State.length_bytes, Nat.sub_zero]
  have hoperand : BitVec.ofNat 16 (u.bytes 0 u.cursor.toNat).length = u.cursor := by
    rw [hlen, BitVec.ofNat_toNat, BitVec.setWidth_eq]
  obtain ⟨r, hr⟩ : ∃ r, r = State.resetWith s.config.cap contents := ⟨_, rfl⟩
  have hrwf : r.buf.wf = true := by rw [hr]; exact hwf
  have hempty : r.cursor.toNat = 0 := by rw [hr]; rfl
  have hspace' : r.cursor.toNat + u.cursor.toNat ≤ r.capacity := by
    rw [hempty, Nat.zero_add, hr, State.resetWith_capacity]
    exact hdone.cursorInBuffer.trans hcap.le
  refine ⟨(r.received u.cursor (u.bytes 0 u.cursor.toNat)).respond ⟨.ok, 0, []⟩, ?_, State.lastOk_respond .., ?_⟩
  · rw [State.respond_bytes, State.respond_cursor, ← hr, feed, hoperand]
    exact exec_addReceivedBytes_ok hlen (by rw [hr]; rfl) (by rw [hr]; rfl) hspace'
  · rw [hdone.received_eq hrwf hempty (by rw [hr]; rfl) (by rw [hr]; rfl)]
    exact ⟨rfl, hdone.headerPresent.symm, hdone.packetComplete.symm, hdone.expectedLen.symm, hdone.lenValid.symm,
      hdone.hdrOff.symm, hdone.hdrSnap.symm, fun a ha => State.byteAt_appended_of_empty hrwf hempty u ha⟩

end Sys2Proof.Machine
end

section
/-! Validation (R138 to R141) and the commands that read a field of the frame (R142 to R152). -/

namespace Sys2Proof.Machine

/-- In a state with the invariants a complete frame begins with the magic header (V3, V2, V4). -/
theorem State.Inv.frame_magic {s : State} (h : s.Inv) (hcomplete : s.packetComplete = true) :
    s.bytes s.hdrOff.toNat (s.hdrOff.toNat + 5) = magic :=
  (h.headerIsMagic (h.lengthHasHeader (h.completeHasFrame hcomplete).1)).2.1

/-- Settles O19: a complete frame lies in the buffer, and its header is the one the detector found. -/
theorem validateNeverFindsAWrongHeader : Obligations.ValidateNeverFindsAWrongHeader := by
  intro s h
  refine ⟨_, validate_eq s h.frameInBuffer, ?_⟩
  split_ifs with hopen hlen htrailer hmagic
  · exact ResultCode.noConfusion
  · exact ResultCode.noConfusion
  · exact ResultCode.noConfusion
  · exact absurd (h.frame_magic (by simpa using hopen)) hmagic
  · exact ResultCode.noConfusion

/-! `RequireValid()` in front of a command. -/

/-- A command that requires a valid frame fails with the code of `Validate()` (R145). -/
theorem answer_requireValid_fails {s : State} {code : ResultCode} {f : Unit → Cmd Done} (hcode : validate s = .ok code)
    (hne : code ≠ .ok) : s.answer (requireValid s >>= f) = .next (s.fail code) := by
  rw [requireValid_eq hcode, if_neg hne, Cmd.error_bind, State.answer_raise]

/-- `VALIDATE_DATA` answers the code of `Validate()` (R141). -/
theorem exec_validateData_eq {s : State} {code : ResultCode} (hcode : validate s = .ok code) :
    exec .validateData s = .next (s.respond ⟨code, 0, []⟩) := by
  by_cases hok : code = .ok
  · rw [exec, execValidateData, requireValid_eq hcode, if_pos hok, hok]
    rfl
  · exact answer_requireValid_fails hcode hok

/-- `DATA_AVAILABLE` answers whether the code of `Validate()` is `OK` (R140). -/
theorem exec_dataAvailable_eq {s : State} {code : ResultCode} (hcode : validate s = .ok code) :
    exec .dataAvailable s = .next (s.respond ⟨.ok, if code = .ok then 1 else 0, []⟩) := by
  rw [exec, execDataAvailable, hcode]
  rfl

/-- Settles O41: each premise picks the branch of `Validate()` that its code stands in. -/
theorem validateDataAnswersInOrder : Obligations.ValidateDataAnswersInOrder := by
  intro s h
  have hanswer := exec_validateData_eq (validate_eq s h)
  have hend : s.itemsEnd = s.hdrOff.toNat + s.expectedLen.toNat - 2 := rfl
  rw [hend] at hanswer
  refine ⟨fun hopen => ?_, fun hcomplete hlen => ?_, fun hcomplete hlen htrailer => ?_,
    fun hcomplete hlen htrailer hmagic => ?_, fun hcomplete hlen htrailer hmagic => ?_⟩
  · rw [hanswer, if_pos hopen]
    rfl
  all_goals rw [if_neg (by simp [hcomplete])] at hanswer
  · rw [hanswer, if_pos hlen]
    rfl
  all_goals rw [if_neg (Nat.not_lt.mpr hlen)] at hanswer
  · rw [hanswer, if_pos htrailer]
    rfl
  all_goals rw [if_neg (not_not.mpr htrailer)] at hanswer
  · rw [hanswer, if_pos hmagic]
    rfl
  · rw [hanswer, if_neg (not_not.mpr hmagic)]

/-- Settles O42: `Validate()` answers `OK` exactly on a valid frame. -/
theorem dataAvailableSaysWhetherTheFrameIsValid : Obligations.DataAvailableSaysWhetherTheFrameIsValid := by
  intro s h
  have hcode := validate_eq s h
  have hvalid := validate_eq_ok_iff s h
  rw [hcode, Except.ok.injEq] at hvalid
  rw [exec_dataAvailable_eq hcode]
  refine ⟨fun hframe => ?_, fun hframe => ?_⟩
  · rw [if_pos (hvalid.mpr hframe)]
  · rw [if_neg (mt hvalid.mp hframe)]

/-- Settles O43: all seven begin with `RequireValid()`. -/
theorem frameReadsFailWithTheCodeOfValidate : Obligations.FrameReadsFailWithTheCodeOfValidate := by
  intro s i h hinvalid hi
  obtain ⟨code, hcode, -⟩ := validateNeverFindsAWrongHeader s h
  have hne : code ≠ .ok := by
    rintro rfl
    exact hinvalid ((validate_eq_ok_iff s h.frameInBuffer).mp hcode)
  refine ⟨code, hne, exec_validateData_eq hcode, ?_⟩
  obtain rfl | ⟨k, rfl⟩ | ⟨off, type, n, max, rfl⟩ | rfl | rfl | rfl | rfl := hi <;>
    exact answer_requireValid_fails hcode hne

/-- `RequireValid()` passes on a valid frame (R145). -/
theorem State.Inv.requireValid_ok {s : State} (h : s.Inv) (hvalid : s.frameValid) : requireValid s = .ok () :=
  requireValid_eq ((validate_eq_ok_iff s h.frameInBuffer).mpr hvalid)

/-- The fixed part of a valid frame lies in the buffer. -/
theorem State.Inv.fixedPart_of_frameValid {s : State} (h : s.Inv) (hvalid : s.frameValid) :
    s.hdrOff.toNat + 14 ≤ s.capacity := by
  obtain ⟨hcomplete, hlen, -⟩ := hvalid
  have := h.frameInBuffer hcomplete
  omega

/-- The item section of a complete frame lies in the buffer (R143). -/
theorem State.Inv.itemsEnd_le {s : State} (h : s.Inv) (hcomplete : s.packetComplete = true) :
    s.itemsEnd ≤ s.capacity :=
  Nat.le_trans (Nat.sub_le ..) (h.frameInBuffer hcomplete)

section ValidFrame
variable {s : State} (h : s.Inv) (hvalid : s.frameValid)
include h hvalid

/-- A byte of a valid frame's fixed part answered (R149 to R152). -/
theorem answer_validByte {off : Nat} (hoff : off < 12) (value : Byte → U16) :
    s.answer (do requireValid s; let b ← s.frameByte off; return s.reply (value b)) =
      .next (s.respond ⟨.ok, value (s.byteAt (s.hdrOff.toNat + off)), []⟩) := by
  have hfixed := h.fixedPart_of_frameValid hvalid
  rw [h.requireValid_ok hvalid, Cmd.ok_bind, State.frameByte, State.memRead1_ok (by omega)]
  rfl

/-- The count field of a valid frame is read as it stands (R142). -/
theorem frameWord_countOff : s.frameWord countOff = .ok s.countField := by
  have hfixed := h.fixedPart_of_frameValid hvalid
  exact State.memRead2_ok (by simp only [countOff]; omega)

end ValidFrame

theorem toNat_setWidth_byte (b : Byte) : (b.setWidth 16).toNat = b.toNat :=
  BitVec.toNat_setWidth_of_le (by decide)

theorem toNat_ackStatusField (type : Byte) : (ackStatusField type).toNat = type.toNat % 4 := by
  rw [ackStatusField, BitVec.toNat_ofNat]
  omega

theorem toNat_ackRequestField (type : Byte) : (ackRequestField type).toNat = type.toNat / 4 % 2 := by
  rw [ackRequestField, BitVec.toNat_ofNat]
  omega

/-- Settles O44. -/
theorem gettersReadTheValidFrame : Obligations.GettersReadTheValidFrame := by
  intro s h hvalid
  refine ⟨⟨s.countField, ?_, u16_toNat ..⟩,
    ⟨_, answer_validByte h hvalid (by decide) _, toNat_setWidth_byte _⟩,
    ⟨_, answer_validByte h hvalid (by decide) _, toNat_setWidth_byte _⟩,
    ⟨_, answer_validByte h hvalid (by decide) _, toNat_ackStatusField _⟩,
    ⟨_, answer_validByte h hvalid (by decide) _, toNat_ackRequestField _⟩⟩
  rw [exec, execGetDataCount, h.requireValid_ok hvalid, Cmd.ok_bind, frameWord_countOff h hvalid]
  rfl

end Sys2Proof.Machine
end

section
/-! The item section of the frame: the walk over its items (R144), the descriptor of one (R146) and a range of bytes
copied out (R148). -/

namespace Sys2Proof.Machine

/-- What a walk that has found an item, or none, finds next (R144). -/
def State.nextItem (s : State) (found : Option (Nat × Nat)) : Option (Nat × Nat) :=
  found.bind fun item => s.itemAt (item.1 + 3 + item.2)

/-- One more item at the end of a walk (R144). -/
theorem walkFrom_eq_nextItem {s : State} (hend : s.itemsEnd ≤ s.capacity) {k p : Nat} {found : Option (Nat × Nat)}
    (hwalk : walkFrom s k p = .ok found) : walkFrom s (k + 1) p = .ok (s.nextItem found) := by
  induction k generalizing p with
  | zero =>
    rw [walkFrom_zero hend] at hwalk
    cases hwalk
    rw [walkFrom_succ hend]
    cases s.itemAt p with
    | none => rfl
    | some item => exact walkFrom_zero hend _
  | succ k ih =>
    rw [walkFrom_succ hend] at hwalk ⊢
    cases hitem : s.itemAt p with
    | none =>
      rw [hitem] at hwalk
      cases hwalk
      rfl
    | some item =>
      rw [hitem] at hwalk
      exact ih hwalk

/-- Settles O45. -/
theorem walkFollowsTheItemLengths : Obligations.WalkFollowsTheItemLengths :=
  fun _ _ hend => ⟨walkFrom_zero hend _, walkFrom_eq_nextItem hend, fun _ _ => walkFrom_eq_nextItem hend⟩

/-- The walk always gives an answer. -/
theorem exists_walkFrom_eq_ok {s : State} (hend : s.itemsEnd ≤ s.capacity) (k p : Nat) :
    ∃ found, walkFrom s k p = .ok found := by
  induction k with
  | zero => exact ⟨_, walkFrom_zero hend p⟩
  | succ k ih =>
    obtain ⟨found, hwalk⟩ := ih
    exact ⟨_, walkFrom_eq_nextItem hend hwalk⟩

/-- An item that stands at an offset ends inside the item section (R144). -/
theorem State.itemAt_eq_some {s : State} {p q len : Nat} (hitem : s.itemAt p = some (q, len)) :
    q + 3 + len ≤ s.itemsEnd := by
  dsimp only [State.itemAt] at hitem
  split_ifs at hitem with hheader hpayload
  cases hitem
  exact Nat.not_lt.mp hpayload

/-- An item that the walk answers ends inside the item section (R144). -/
theorem itemEnd_le_of_walkFrom {s : State} (hend : s.itemsEnd ≤ s.capacity) {k p q len : Nat}
    (hwalk : walkFrom s k p = .ok (some (q, len))) : q + 3 + len ≤ s.itemsEnd := by
  cases k with
  | zero =>
    rw [walkFrom_zero hend] at hwalk
    exact State.itemAt_eq_some (Except.ok.inj hwalk)
  | succ k =>
    obtain ⟨found, hfound⟩ := exists_walkFrom_eq_ok hend k p
    rw [walkFrom_eq_nextItem hend hfound] at hwalk
    obtain ⟨item, -, hitem⟩ := Option.bind_eq_some_iff.mp (Except.ok.inj hwalk)
    exact State.itemAt_eq_some hitem

/-- Settles O46: the checks in order, then the item that the walk answers, which ends inside the section. -/
theorem getDataInfoAnswersTheDescriptor : Obligations.GetDataInfoAnswersTheDescriptor := by
  intro s k h hvalid
  have hend := h.itemsEnd_le hvalid.1
  have hcap := s.capacity_lt
  simp only [exec, execGetDataInfo, h.requireValid_ok hvalid, frameWord_countOff h hvalid, Cmd.ok_bind]
  refine ⟨fun hindex => ?_, fun hindex hwalk => ?_, fun p len hindex hwalk => ?_,
    exists_walkFrom_eq_ok hend k.toNat s.itemsStart⟩
  · rw [raiseIf_pos hindex, Cmd.error_bind, State.answer_raise]
  · rw [raiseIf_neg (Nat.not_le.mpr hindex), Cmd.ok_bind, hwalk]
    rfl
  · have hitem := itemEnd_le_of_walkFrom hend hwalk
    refine ⟨BitVec.ofNat 16 (p + 3), BitVec.ofNat 16 len, toNat_ofNat_of_lt (by omega),
      toNat_ofNat_of_lt (by omega), ?_⟩
    rw [raiseIf_neg (Nat.not_le.mpr hindex), Cmd.ok_bind, hwalk, Cmd.ok_bind]
    show s.answer (s.memRead1 p >>= _) = _
    rw [State.memRead1_ok (by omega)]
    rfl

/-- Settles O47: the checks in order, then the bytes of the range, which lie in the buffer. -/
theorem getDataCopiesARangeOfTheSection : Obligations.GetDataCopiesARangeOfTheSection := by
  intro s off type n max h hvalid
  have hend := h.itemsEnd_le hvalid.1
  simp only [exec, execGetData, h.requireValid_ok hvalid, Cmd.ok_bind]
  refine ⟨fun hmax => ?_, fun hmax hrange => ?_, fun hmax hlow hhigh =>
    ⟨s.bytes off.toNat (off.toNat + n.toNat), ?_, ?_, fun i hi => ?_⟩⟩
  · rw [raiseIf_pos hmax, Cmd.error_bind, State.answer_raise]
  · rw [raiseIf_neg (Nat.not_lt.mpr hmax), Cmd.ok_bind, raiseIf_pos (by exact hrange), Cmd.error_bind,
      State.answer_raise]
  · rw [raiseIf_neg (Nat.not_lt.mpr hmax), Cmd.ok_bind,
      raiseIf_neg (by exact not_or.mpr ⟨Nat.not_lt.mpr hlow, Nat.not_lt.mpr hhigh⟩), Cmd.ok_bind,
      State.memBytes_ok (.inr (Nat.le_trans hhigh hend))]
    rfl
  · rw [State.length_bytes, Nat.add_sub_cancel_left]
  · rw [State.getD_bytes s (by omega)]

end Sys2Proof.Machine
end

section
/-! The streaming matcher against the scan (R133). The five bytes of the magic header differ from each other, so after a
mismatch at most the byte just read can begin a new occurrence. -/

namespace Sys2Proof.Machine

/-- A byte that is not the header's first one is skipped by the scan. -/
theorem findMagic_cons_of_ne {b : Byte} (hb : b ≠ 0x55) (rest : List Byte) :
    findMagic (b :: rest) = (findMagic rest).map (· + 1) := by
  rw [findMagic_cons, if_neg]
  intro hmagic
  exact hb (List.cons.inj hmagic).1

/-- Fewer than five bytes hold no header. -/
theorem findMagic_of_length_lt {bs : List Byte} (h : bs.length < 5) : findMagic bs = none := by
  cases hfound : findMagic bs with
  | none => rfl
  | some p =>
    have := (findMagic_eq_some hfound).1
    omega

/-- Bytes that are not the header's first one are skipped by the scan. -/
theorem findMagic_append_of_ne {xs : List Byte} (hxs : ∀ x ∈ xs, x ≠ 0x55) (ys : List Byte) :
    findMagic (xs ++ ys) = (findMagic ys).map (· + xs.length) := by
  induction xs with
  | nil => exact Option.map_id'.symm
  | cons x xs ih =>
    rw [List.cons_append, findMagic_cons_of_ne (hxs x List.mem_cons_self),
      ih fun y hy => hxs y (List.mem_cons_of_mem x hy), Option.map_map]
    rfl

/-- Where the byte behind a proper part of the magic header is not the header's next one, no occurrence begins inside
that part: not at its start, where the mismatch is, and not further on, where no byte is the header's first one. -/
theorem findMagic_of_mismatch {m : Nat} (hm : m < 5) {b : Byte} (hb : magic[m]? ≠ some b) (rest : List Byte) :
    findMagic (magic.take m ++ b :: rest) = (findMagic (b :: rest)).map (· + m) := by
  have hstart : ¬ (magic.take m ++ b :: rest).take 5 = magic := by
    intro hmagic
    refine hb ?_
    rw [← hmagic, List.getElem?_take_of_lt hm, List.getElem?_append_right (by simp), List.length_take_of_le hm.le,
      Nat.sub_self]
    rfl
  cases m with
  | zero => exact Option.map_id'.symm
  | succ j =>
    have hskip : ∀ x ∈ magic.tail.take j, x ≠ 0x55 := fun x hx =>
      (by decide : ∀ x ∈ magic.tail, x ≠ 0x55) x (List.mem_of_mem_take hx)
    have hlen : (magic.tail.take j).length = j := by
      simp only [magic, List.tail_cons, List.length_take, List.length_cons, List.length_nil]
      omega
    change findMagic (0x55 :: (magic.tail.take j ++ b :: rest)) = _
    rw [findMagic_cons, if_neg (by exact hstart), findMagic_append_of_ne hskip, hlen, Option.map_map]
    rfl

/-- The matcher with counter `m` finds what the scan finds in the `m` matched bytes and those still to come (R133). -/
theorem streamMatch_eq_findMagic {m i : Nat} (hm : m < 5) (hi : m ≤ i) (bytes : List Byte) :
    streamMatch m i bytes = (findMagic (magic.take m ++ bytes)).map (· + (i - m)) := by
  induction bytes generalizing m i with
  | nil =>
    rw [findMagic_of_length_lt (by simp [hm])]
    rfl
  | cons b rest ih =>
    rw [streamMatch]
    by_cases hnext : magic[m]? = some b
    · have hmatch : matchByte m b = m + 1 := if_pos hnext
      have htake : magic.take (m + 1) ++ rest = magic.take m ++ b :: rest := by
        rw [List.take_add_one, hnext, List.append_assoc]
        rfl
      rw [hmatch, ← htake]
      by_cases hlast : m + 1 = 5
      · obtain rfl : m = 4 := by omega
        rw [if_pos hlast, findMagic_of_take rfl]
        simp
      · rw [if_neg hlast, ih (by omega) (by omega), Nat.add_sub_add_right]
    · rw [findMagic_of_mismatch hm hnext, Option.map_map]
      by_cases hfirst : b = 0x55
      · have hmatch : matchByte m b = 1 := by rw [matchByte, if_neg hnext, if_pos hfirst]
        rw [hmatch, if_neg (by decide), ih (by decide) (by omega), hfirst]
        congr 1
        funext p
        simp only [Function.comp_apply]
        omega
      · have hmatch : matchByte m b = 0 := by rw [matchByte, if_neg hnext, if_neg hfirst]
        rw [hmatch, if_neg (by decide), ih (by decide) (by omega), findMagic_cons_of_ne hfirst, Option.map_map]
        congr 1
        funext p
        simp only [Function.comp_apply]
        omega

/-- Settles O40. -/
theorem streamingMatcherEqualsTheScan : Obligations.StreamingMatcherEqualsTheScan := by
  intro bytes
  rw [streamMatch_eq_findMagic (by decide) (Nat.le_refl 0)]
  exact Option.map_id'

end Sys2Proof.Machine
end

section
/-! The parse of a receiving unit (R131, R135, R136): what each step does in each case, and what it leaves unchanged. -/

namespace Sys2Proof.Machine

section ParseSteps
variable (s : State)

theorem State.withHeader_of_present {s : State} (hheader : s.headerPresent = true) : s.withHeader = s := if_pos hheader

theorem State.withHeader_of_none {s : State} (hnone : findMagic (s.bytes 0 s.cursor.toNat) = none) :
    s.withHeader = s := by
  unfold State.withHeader
  rw [hnone, ite_self]

theorem State.withHeader_of_found {s : State} {p : Nat} (hheader : s.headerPresent = false)
    (hfound : findMagic (s.bytes 0 s.cursor.toNat) = some p) :
    s.withHeader =
      { s with headerPresent := true, hdrOff := BitVec.ofNat 16 p, hdrSnap := .ofBytes (s.bytes p (p + 5)) } := by
  rw [State.withHeader, if_neg (by simp [hheader]), hfound]

/-- The header detector writes nothing, or the header's registers (R131). -/
theorem State.withHeader_cases :
    s.withHeader = s ∨
      ∃ p, s.withHeader =
        { s with headerPresent := true, hdrOff := BitVec.ofNat 16 p, hdrSnap := .ofBytes (s.bytes p (p + 5)) } := by
  cases hheader : s.headerPresent with
  | true => exact .inl (State.withHeader_of_present hheader)
  | false =>
    cases hfound : findMagic (s.bytes 0 s.cursor.toNat) with
    | none => exact .inl (State.withHeader_of_none hfound)
    | some p => exact .inr ⟨p, State.withHeader_of_found hheader hfound⟩

@[simp] theorem State.withHeader_lenValid : s.withHeader.lenValid = s.lenValid := by
  obtain h | ⟨p, h⟩ := s.withHeader_cases <;> rw [h]

@[simp] theorem State.withHeader_expectedLen : s.withHeader.expectedLen = s.expectedLen := by
  obtain h | ⟨p, h⟩ := s.withHeader_cases <;> rw [h]

@[simp] theorem State.withHeader_packetComplete : s.withHeader.packetComplete = s.packetComplete := by
  obtain h | ⟨p, h⟩ := s.withHeader_cases <;> rw [h]

theorem State.samePort_withHeader : s.SamePort s.withHeader := by
  obtain h | ⟨p, h⟩ := s.withHeader_cases <;> rw [h] <;> exact ⟨rfl, rfl, rfl⟩

/-- The length step's condition (R135): the header located, the length not yet known, its two bytes there. -/
abbrev State.lengthArrived : Prop :=
  s.headerPresent = true ∧ s.lenValid = false ∧ s.cursor.toNat ≥ s.hdrOff.toNat + 7

theorem State.withLength_of_arrived {s : State} (hread : s.lengthArrived) :
    s.withLength =
      { s with
        expectedLen := u16 (s.byteAt (s.hdrOff.toNat + 5)) (s.byteAt (s.hdrOff.toNat + 6)), lenValid := true } :=
  if_pos hread

theorem State.withLength_of_not_arrived {s : State} (hread : ¬ s.lengthArrived) : s.withLength = s := if_neg hread

theorem State.withLength_of_known {s : State} (hlength : s.lenValid = true) : s.withLength = s :=
  State.withLength_of_not_arrived fun ⟨_, hunknown, _⟩ => nomatch hunknown.symm.trans hlength

@[simp] theorem State.withLength_headerPresent : s.withLength.headerPresent = s.headerPresent := by
  unfold State.withLength
  split <;> rfl

@[simp] theorem State.withLength_hdrOff : s.withLength.hdrOff = s.hdrOff := by
  unfold State.withLength
  split <;> rfl

@[simp] theorem State.withLength_hdrSnap : s.withLength.hdrSnap = s.hdrSnap := by
  unfold State.withLength
  split <;> rfl

@[simp] theorem State.withLength_packetComplete : s.withLength.packetComplete = s.packetComplete := by
  unfold State.withLength
  split <;> rfl

theorem State.samePort_withLength : s.SamePort s.withLength := by
  unfold State.withLength
  split <;> exact ⟨rfl, rfl, rfl⟩

/-- The completion step's condition (R136): the frame's end has been reached. -/
abbrev State.frameArrived : Prop :=
  s.headerPresent = true ∧ s.lenValid = true ∧ s.cursor.toNat ≥ s.hdrOff.toNat + s.expectedLen.toNat

theorem completeFrame_of_arrived {s : State} (hend : s.frameArrived) :
    completeFrame s = { s with packetComplete := true } := if_pos hend

theorem completeFrame_of_not_arrived {s : State} (hend : ¬ s.frameArrived) : completeFrame s = s := if_neg hend

@[simp] theorem completeFrame_headerPresent : (completeFrame s).headerPresent = s.headerPresent := by
  unfold completeFrame
  split <;> rfl

@[simp] theorem completeFrame_hdrOff : (completeFrame s).hdrOff = s.hdrOff := by
  unfold completeFrame
  split <;> rfl

@[simp] theorem completeFrame_hdrSnap : (completeFrame s).hdrSnap = s.hdrSnap := by
  unfold completeFrame
  split <;> rfl

@[simp] theorem completeFrame_lenValid : (completeFrame s).lenValid = s.lenValid := by
  unfold completeFrame
  split <;> rfl

@[simp] theorem completeFrame_expectedLen : (completeFrame s).expectedLen = s.expectedLen := by
  unfold completeFrame
  split <;> rfl

theorem completeFrame_packetComplete :
    (completeFrame s).packetComplete = true ↔ s.packetComplete = true ∨ s.frameArrived := by
  by_cases hend : s.frameArrived
  · rw [completeFrame_of_arrived hend]
    exact iff_of_true rfl (.inr hend)
  · rw [completeFrame_of_not_arrived hend]
    exact (or_iff_left hend).symm

end ParseSteps

/-! The whole command. -/

section Received
variable {s : State} {n : U16} {bytes : List Byte}

theorem State.samePort_received (s : State) (n : U16) (bytes : List Byte) : s.SamePort (s.received n bytes) :=
  State.SamePort.trans (t := s.appended n bytes) ⟨rfl, rfl, rfl⟩ <|
    (State.samePort_withHeader _).trans <| (State.samePort_withLength _).trans <| samePort_completeFrame _

theorem State.received_byteAt (s : State) (n : U16) (bytes : List Byte) (a : Nat) :
    (s.received n bytes).byteAt a = (s.appended n bytes).byteAt a := by
  rw [State.byteAt, (s.received_parsedFrom n bytes).buf, State.byteAt]

theorem State.received_bytes (s : State) (n : U16) (bytes : List Byte) (a b : Nat) :
    (s.received n bytes).bytes a b = (s.appended n bytes).bytes a b := by
  rw [State.bytes, (s.received_parsedFrom n bytes).buf, State.bytes]

theorem State.received_cursor (hspace : s.cursor.toNat + n.toNat ≤ s.capacity) :
    (s.received n bytes).cursor.toNat = s.cursor.toNat + n.toNat :=
  (congrArg BitVec.toNat (s.received_parsedFrom n bytes).cursor).trans (State.appended_cursor hspace)

/-- A header located before, or nowhere in the bytes received, leaves the header registers (R131). -/
theorem State.received_header_kept
    (hkept : s.headerPresent = true ∨
      findMagic ((s.received n bytes).bytes 0 (s.received n bytes).cursor.toNat) = none) :
    (s.received n bytes).headerPresent = s.headerPresent ∧ (s.received n bytes).hdrOff = s.hdrOff ∧
      (s.received n bytes).hdrSnap = s.hdrSnap := by
  have hsame : (s.appended n bytes).withHeader = s.appended n bytes := by
    obtain hheader | hnone := hkept
    · exact State.withHeader_of_present hheader
    · rw [State.received_bytes, (s.received_parsedFrom n bytes).cursor] at hnone
      exact State.withHeader_of_none hnone
  simp only [State.received, completeFrame_headerPresent, completeFrame_hdrOff, completeFrame_hdrSnap,
    State.withLength_headerPresent, State.withLength_hdrOff, State.withLength_hdrSnap, hsame]
  exact ⟨rfl, rfl, rfl⟩

/-- A header found in the bytes received is located, and its bytes are kept (R131). -/
theorem State.received_header_found {p : Nat} (hheader : s.headerPresent = false)
    (hfound : findMagic ((s.received n bytes).bytes 0 (s.received n bytes).cursor.toNat) = some p) :
    (s.received n bytes).headerPresent = true ∧ (s.received n bytes).hdrOff.toNat = p ∧
      (s.received n bytes).hdrSnap.toBytes = (s.received n bytes).bytes p (p + 5) := by
  rw [State.received_bytes, (s.received_parsedFrom n bytes).cursor] at hfound
  obtain ⟨hin, hmagic⟩ := findMagic_eq_some hfound
  rw [State.length_bytes] at hin
  have hp : p < 65536 := by
    have := (s.appended n bytes).cursor.isLt
    omega
  have hlocated := State.withHeader_of_found (s := s.appended n bytes) hheader hfound
  have hbytes : (s.appended n bytes).bytes p (p + 5) = magic := by
    rw [State.bytes, Memory.drop_readRange _ (by omega), Memory.take_readRange _ (by omega), Nat.zero_add] at hmagic
    rw [State.bytes, Nat.add_sub_cancel_left, hmagic]
  rw [State.received_bytes, hbytes]
  simp only [State.received, completeFrame_headerPresent, completeFrame_hdrOff, completeFrame_hdrSnap,
    State.withLength_headerPresent, State.withLength_hdrOff, State.withLength_hdrSnap, hlocated, hbytes]
  exact ⟨trivial, toNat_ofNat_of_lt hp, rfl⟩

/-- What the length step sees, said of the state that the command leaves. -/
theorem State.lengthArrived_appended_iff (s : State) (n : U16) (bytes : List Byte) :
    (s.appended n bytes).withHeader.lengthArrived ↔
      (s.received n bytes).headerPresent = true ∧ s.lenValid = false ∧
        (s.received n bytes).hdrOff.toNat + 7 ≤ (s.received n bytes).cursor.toNat := by
  rw [(s.received_parsedFrom n bytes).cursor, State.lengthArrived, State.withHeader_lenValid,
    (State.withHeader_parsedFrom _).cursor]
  simp only [State.received, completeFrame_headerPresent, completeFrame_hdrOff, State.withLength_headerPresent,
    State.withLength_hdrOff]
  rfl

/-- A length field that has arrived is read (R135). -/
theorem State.received_length_read
    (hread : (s.received n bytes).headerPresent = true ∧ s.lenValid = false ∧
      (s.received n bytes).hdrOff.toNat + 7 ≤ (s.received n bytes).cursor.toNat) :
    (s.received n bytes).lenValid = true ∧
      (s.received n bytes).expectedLen =
        u16 ((s.received n bytes).byteAt ((s.received n bytes).hdrOff.toNat + 5))
          ((s.received n bytes).byteAt ((s.received n bytes).hdrOff.toNat + 6)) := by
  have hlength := State.withLength_of_arrived ((s.lengthArrived_appended_iff n bytes).mpr hread)
  rw [State.received_byteAt, State.received_byteAt]
  simp only [State.received, completeFrame_lenValid, completeFrame_expectedLen, completeFrame_hdrOff,
    hlength, State.byteAt, (State.withHeader_parsedFrom _).buf]
  exact ⟨trivial, trivial⟩

/-- A length known before, or not yet there, leaves the length registers (R135). -/
theorem State.received_length_kept
    (hread : ¬ ((s.received n bytes).headerPresent = true ∧ s.lenValid = false ∧
      (s.received n bytes).hdrOff.toNat + 7 ≤ (s.received n bytes).cursor.toNat)) :
    (s.received n bytes).lenValid = s.lenValid ∧ (s.received n bytes).expectedLen = s.expectedLen := by
  have hlength := State.withLength_of_not_arrived (mt (s.lengthArrived_appended_iff n bytes).mp hread)
  simp only [State.received, completeFrame_lenValid, completeFrame_expectedLen, hlength, State.withHeader_lenValid,
    State.withHeader_expectedLen]
  exact ⟨rfl, rfl⟩

/-- The frame is complete if it was, or if its end has been reached (R136). -/
theorem State.received_complete_iff (s : State) (n : U16) (bytes : List Byte) :
    (s.received n bytes).packetComplete = true ↔
      s.packetComplete = true ∨
        ((s.received n bytes).headerPresent = true ∧ (s.received n bytes).lenValid = true ∧
          (s.received n bytes).hdrOff.toNat + (s.received n bytes).expectedLen.toNat ≤
            (s.received n bytes).cursor.toNat) := by
  rw [(s.received_parsedFrom n bytes).cursor, State.received, completeFrame_packetComplete,
    State.withLength_packetComplete, State.withHeader_packetComplete, State.frameArrived, completeFrame_headerPresent, completeFrame_lenValid,
    completeFrame_hdrOff, completeFrame_expectedLen, (State.withLength_parsedFrom _).cursor,
    (State.withHeader_parsedFrom _).cursor]
  rfl

end Received

/-- Settles O37: the three checks, then the state that the append and the three parse steps leave. -/
theorem addReceivedBytesAppendsAndParses : Obligations.AddReceivedBytesAppendsAndParses := by
  intro s n bytes h hfits
  refine ⟨fun hlock => ?_, fun hlock htx => ?_, fun hlock htx hspace => ?_, fun hlock htx hspace =>
    ⟨s.received n bytes, exec_addReceivedBytes_ok hfits hlock htx hspace, ?_⟩⟩
  · rw [exec_addReceivedBytes_eq, lockCheck_locked hlock, Cmd.error_bind, State.answer_raise]
  · rw [exec_addReceivedBytes_eq, lockCheck_unlocked hlock, Cmd.ok_bind, raiseIf_pos htx, Cmd.error_bind,
      State.answer_raise]
  · rw [exec_addReceivedBytes_eq, lockCheck_unlocked hlock, Cmd.ok_bind, raiseIf_neg (Bool.eq_false_iff.mp htx),
      Cmd.ok_bind, raiseIf_pos hspace, Cmd.error_bind, State.answer_raise]
  · have hparsed := s.received_parsedFrom n bytes
    have hport := s.samePort_received n bytes
    have hbytes (a : Nat) : (s.received n bytes).byteAt a =
        if s.cursor.toNat ≤ a ∧ a < s.cursor.toNat + n.toNat then bytes.getD (a - s.cursor.toNat) 0
        else s.byteAt a := by
      rw [State.received_byteAt, ← show bytes.length = n.toNat from hfits]
      exact Memory.read_writeAll h.bufferOk.1 ..
    exact ⟨hparsed.config, hparsed.lock, hparsed.txStarted, hport.pending, hport.responses,
      State.received_cursor hspace, hbytes, State.received_header_kept, fun _ => State.received_header_found,
      State.received_length_read, State.received_length_kept, s.received_complete_iff n bytes⟩

end Sys2Proof.Machine
end

section
/-! The phases of a receiving unit (R137). -/

namespace Sys2Proof.Machine

/-- Where a unit that has a header and did not know the frame's length is led by a chunk (R137): `LENGTH` until the
length field is there, then `BODY` until the frame's end is. -/
theorem State.received_phase_of_header {s : State} {n : U16} {bytes : List Byte} {p : Nat}
    (hinv : (s.received n bytes).Inv) (htx : s.txStarted = false) (hunknown : s.lenValid = false)
    (hopen : s.packetComplete = false) (hheader : (s.received n bytes).headerPresent = true)
    (hp : (s.received n bytes).hdrOff.toNat = p) :
    let u := (u16 ((s.received n bytes).byteAt (p + 5)) ((s.received n bytes).byteAt (p + 6))).toNat
    ((s.received n bytes).cursor.toNat < p + 7 → (s.received n bytes).phase = .length) ∧
    (p + 7 ≤ (s.received n bytes).cursor.toNat → (s.received n bytes).cursor.toNat < p + u →
      (s.received n bytes).phase = .body) ∧
    (p + 7 ≤ (s.received n bytes).cursor.toNat → p + u ≤ (s.received n bytes).cursor.toNat →
      (s.received n bytes).phase = .rxDone) := by
  obtain ⟨-, hlengthRow, hbodyRow, hdoneRow, -⟩ := exactlyOnePhaseRowApplies _ hinv
  have htx' := (s.received_parsedFrom n bytes).txStarted.trans htx
  have hcomplete := s.received_complete_iff n bytes
  subst hp
  have hread := State.received_length_read (s := s) (n := n) (bytes := bytes)
  refine ⟨fun hshort => ?_, fun hfield hshort => ?_, fun hfield hend => ?_⟩
  · obtain ⟨hlength, -⟩ := State.received_length_kept fun hread => absurd hread.2.2 (Nat.not_le.mpr hshort)
    exact hlengthRow.mpr ⟨htx', hheader, hlength.trans hunknown⟩
  · obtain ⟨hlength, hlen⟩ := hread ⟨hheader, hunknown, hfield⟩
    refine hbodyRow.mpr ⟨htx', hlength, Bool.eq_false_iff.mpr fun hdone => ?_⟩
    obtain hbefore | ⟨-, -, hend⟩ := hcomplete.mp hdone
    · cases hopen.symm.trans hbefore
    · rw [hlen] at hend
      omega
  · obtain ⟨hlength, hlen⟩ := hread ⟨hheader, hunknown, hfield⟩
    exact hdoneRow.mpr ⟨htx', hcomplete.mpr (.inr ⟨hheader, hlength, by rw [hlen]; exact hend⟩)⟩

/-- Where a unit that knows the frame's length is led by a chunk (R137): `BODY` until the frame's end is there. -/
theorem State.received_phase_of_length {s : State} {n : U16} {bytes : List Byte}
    (hinv : (s.received n bytes).Inv) (htx : s.txStarted = false) (hheader : s.headerPresent = true)
    (hlength : s.lenValid = true) (hopen : s.packetComplete = false) :
    ((s.received n bytes).cursor.toNat < s.hdrOff.toNat + s.expectedLen.toNat → (s.received n bytes).phase = .body) ∧
    (s.hdrOff.toNat + s.expectedLen.toNat ≤ (s.received n bytes).cursor.toNat →
      (s.received n bytes).phase = .rxDone) := by
  obtain ⟨-, -, hbodyRow, hdoneRow, -⟩ := exactlyOnePhaseRowApplies _ hinv
  have hparsed := s.received_parsedFrom n bytes
  have hcomplete := s.received_complete_iff n bytes
  obtain ⟨hheader', hoff, -⟩ := hparsed.header hheader
  obtain ⟨hlength', hlen⟩ := hparsed.length hlength
  replace hoff : (s.received n bytes).hdrOff = s.hdrOff := hoff
  replace hlen : (s.received n bytes).expectedLen = s.expectedLen := hlen
  rw [hoff, hlen, hopen] at hcomplete
  refine ⟨fun hshort => ?_, fun hend => ?_⟩
  · refine hbodyRow.mpr ⟨hparsed.txStarted.trans htx, hlength', Bool.eq_false_iff.mpr fun hdone => ?_⟩
    obtain hbefore | ⟨-, -, hend⟩ := hcomplete.mp hdone
    · cases hbefore
    · omega
  · exact hdoneRow.mpr ⟨hparsed.txStarted.trans htx, hcomplete.mpr (.inr ⟨hheader', hlength', hend⟩)⟩

/-- Settles O38: the phase before says which parse steps were still to run; the transmit phases are refused. -/
theorem receivePhasesMoveAsTabled : Obligations.ReceivePhasesMoveAsTabled := by
  intro s t n bytes h hfits hexec
  obtain ⟨hhunt, hlengthRow, hbodyRow, hdoneRow, hbuildRow, htxDoneRow⟩ := exactlyOnePhaseRowApplies s h
  have hopen (hunknown : s.lenValid = false) : s.packetComplete = false :=
    Bool.eq_false_iff.mpr fun hdone => nomatch hunknown.symm.trans (h.completeHasFrame hdone).1
  refine ⟨fun hok => ?_, fun htx => ?_⟩
  · obtain ⟨u, value, data, heffect, rfl⟩ := effect_of_lastOk rfl hexec hok
    have hinv := heffect.inv h
    cases heffect with
    | query hquery => cases hquery
    | patch hsetter => cases hsetter
    | receive _ htx =>
      have hparsed := s.received_parsedFrom n bytes
      have htx' : (s.received n bytes).txStarted = false := hparsed.txStarted.trans htx
      obtain ⟨hhunt', -, -, hdoneRow', -⟩ := exactlyOnePhaseRowApplies _ hinv
      refine ⟨fun hphase hnone => ?_, fun p hphase hfound => ?_, fun hphase => ?_, fun hphase => ?_, fun hphase => ?_⟩
      · obtain ⟨-, hheader⟩ := hhunt.mp hphase
        exact hhunt'.mpr ⟨htx', (State.received_header_kept (.inr hnone)).1.trans hheader⟩
      · obtain ⟨-, hheader⟩ := hhunt.mp hphase
        have hunknown : s.lenValid = false :=
          Bool.eq_false_iff.mpr fun hlength => nomatch hheader.symm.trans (h.lengthHasHeader hlength)
        obtain ⟨hheader', hp, -⟩ := State.received_header_found hheader hfound
        exact State.received_phase_of_header hinv htx hunknown (hopen hunknown) hheader' hp
      · obtain ⟨-, hheader, hunknown⟩ := hlengthRow.mp hphase
        obtain ⟨hheader', hoff, -⟩ := hparsed.header hheader
        exact State.received_phase_of_header hinv htx hunknown (hopen hunknown) hheader' (congrArg BitVec.toNat hoff)
      · obtain ⟨-, hlength, hnotDone⟩ := hbodyRow.mp hphase
        exact State.received_phase_of_length hinv htx (h.lengthHasHeader hlength) hlength hnotDone
      · obtain ⟨-, hdone⟩ := hdoneRow.mp hphase
        exact hdoneRow'.mpr ⟨htx', hparsed.complete hdone⟩
  · obtain ⟨hlocked, hrefused, -⟩ := addReceivedBytesAppendsAndParses s n bytes h hfits
    have hstarted : s.txStarted = true := htx.elim (fun hphase => (hbuildRow.mp hphase).1)
      fun hphase => (htxDoneRow.mp hphase).1
    exact ⟨fun hlock => Host.Outcome.next.inj (hexec.symm.trans (hlocked hlock)),
      fun hlock => Host.Outcome.next.inj (hexec.symm.trans (hrefused hlock hstarted))⟩

end Sys2Proof.Machine
end

section
/-! A byte string fed in chunks (R154): what a parse has found it finds again, so a parse between two chunks can be left
out; hence two chunks one after the other are one chunk. -/

namespace Sys2Proof.Machine

theorem Memory.writeAll_append (m : Memory) (a : Nat) (xs ys : List Byte) :
    m.writeAll a (xs ++ ys) = (m.writeAll a xs).writeAll (a + xs.length) ys := by
  induction xs generalizing m a with
  | nil => rfl
  | cons x xs ih =>
    rw [List.cons_append, Memory.writeAll, Memory.writeAll, ih, List.length_cons, Nat.add_right_comm, Nat.add_assoc]

/-- The three parse steps (R130). -/
def State.parsed (s : State) : State := completeFrame s.withHeader.withLength

theorem State.received_eq_parsed (s : State) (n : U16) (bytes : List Byte) :
    s.received n bytes = (s.appended n bytes).parsed := rfl

/-- Two chunks appended one after the other are one chunk appended. -/
theorem State.appended_appended {s : State} {n : U16} {xs : List Byte} (hfits : InlineFits n xs)
    (hspace : s.cursor.toNat + n.toNat ≤ s.capacity) (k : U16) (ys : List Byte) :
    (s.appended n xs).appended k ys = s.appended (n + k) (xs ++ ys) := by
  have hcursor := State.appended_cursor (bytes := xs) hspace
  have hend : BitVec.ofNat 16 (s.cursor.toNat + n.toNat + k.toNat) =
      BitVec.ofNat 16 (s.cursor.toNat + (n + k).toNat) := by
    apply BitVec.eq_of_toNat_eq
    simp only [BitVec.toNat_ofNat, BitVec.toNat_add]
    omega
  rw [State.appended, hcursor, hend, State.appended, State.appended, Memory.writeAll_append, hfits]

/-- A parsed state's buffer is canonical if it was. -/
theorem State.ParsedFrom.bufferOk {s t : State} (h : t.ParsedFrom s) (hs : s.bufferOk) : t.bufferOk := by
  simpa only [State.bufferOk, State.capacity, h.buf, h.config] using hs

theorem State.ParsedFrom.space {s t : State} (h : t.ParsedFrom s) {n : Nat}
    (hspace : s.cursor.toNat + n ≤ s.capacity) : t.cursor.toNat + n ≤ t.capacity := by
  simpa only [State.capacity, h.cursor, h.config] using hspace

section
variable {s : State} {n : U16} (hbuf : s.bufferOk) (hspace : s.cursor.toNat + n.toNat ≤ s.capacity) (bytes : List Byte)
include hbuf hspace

/-- A header found before a chunk is found after it, at the same place (R131). -/
theorem State.findMagic_appended {p : Nat} (hfound : findMagic (s.bytes 0 s.cursor.toNat) = some p) :
    findMagic ((s.appended n bytes).bytes 0 (s.appended n bytes).cursor.toNat) = some p := by
  have happend := findMagic_append hfound ((s.appended n bytes).buf.readRange s.cursor.toNat n.toNat)
  rw [← State.appended_bytes (n := n) (bytes := bytes) hbuf (Nat.le_refl _)] at happend
  rw [State.appended_cursor hspace, State.bytes, Nat.sub_zero, Memory.readRange_add, Nat.zero_add]
  exact happend

/-- Looking for the header before a chunk as well changes nothing (R131). -/
theorem State.withHeader_appended_withHeader :
    (s.withHeader.appended n bytes).withHeader = (s.appended n bytes).withHeader := by
  cases hheader : s.headerPresent with
  | true => rw [State.withHeader_of_present hheader]
  | false =>
    cases hfound : findMagic (s.bytes 0 s.cursor.toNat) with
    | none => rw [State.withHeader_of_none hfound]
    | some p =>
      have hin := (findMagic_eq_some hfound).1
      rw [State.length_bytes] at hin
      rw [State.withHeader_of_found hheader hfound, State.withHeader_of_present (by rfl),
        State.withHeader_of_found (s := s.appended n bytes) hheader (State.findMagic_appended hbuf hspace bytes hfound),
        State.appended_bytes hbuf (by omega)]
      rfl

/-- Looking for the length before a chunk as well changes nothing (R135). -/
theorem State.withLength_appended_withLength :
    (s.withLength.appended n bytes).withHeader.withLength = (s.appended n bytes).withHeader.withLength := by
  by_cases hread : s.lengthArrived
  · obtain ⟨hheader, hunknown, hin⟩ := hread
    have hread' : (s.appended n bytes).lengthArrived :=
      ⟨hheader, hunknown, (State.appended_cursor (bytes := bytes) hspace).ge.trans' (Nat.le_add_right_of_le hin)⟩
    rw [State.withLength_of_arrived ⟨hheader, hunknown, hin⟩, State.withHeader_of_present (by exact hheader),
      State.withLength_of_known (by rfl), State.withHeader_of_present (by exact hheader),
      State.withLength_of_arrived hread',
      ← State.appended_byteAt (n := n) (bytes := bytes) hbuf (show s.hdrOff.toNat + 5 < s.cursor.toNat by omega),
      ← State.appended_byteAt (n := n) (bytes := bytes) hbuf (show s.hdrOff.toNat + 6 < s.cursor.toNat by omega)]
    rfl
  · rw [State.withLength_of_not_arrived hread]

omit hbuf in
/-- Looking for the frame's end before a chunk as well changes nothing (R136). -/
theorem State.completeFrame_appended_completeFrame :
    completeFrame ((completeFrame s).appended n bytes).withHeader.withLength =
      completeFrame (s.appended n bytes).withHeader.withLength := by
  by_cases hend : s.frameArrived
  · obtain ⟨hheader, hlength, hin⟩ := hend
    have hend' : (s.appended n bytes).frameArrived :=
      ⟨hheader, hlength, (State.appended_cursor (bytes := bytes) hspace).ge.trans' (Nat.le_add_right_of_le hin)⟩
    rw [completeFrame_of_arrived ⟨hheader, hlength, hin⟩, State.withHeader_of_present (by exact hheader),
      State.withLength_of_known (by exact hlength), State.withHeader_of_present (by exact hheader),
      State.withLength_of_known (by exact hlength), completeFrame_of_arrived hend',
      completeFrame_of_arrived (by exact hend')]
    rfl
  · rw [completeFrame_of_not_arrived hend]

/-- A parse before a chunk can be left out: the parse after it finds the same (R130). -/
theorem State.parsed_appended_parsed : (s.parsed.appended n bytes).parsed = (s.appended n bytes).parsed := by
  have hheader := s.withHeader_parsedFrom
  have hlength := s.withHeader.withLength_parsedFrom
  calc (s.parsed.appended n bytes).parsed
      = completeFrame (s.withHeader.withLength.appended n bytes).withHeader.withLength :=
        State.completeFrame_appended_completeFrame (hlength.space (hheader.space hspace)) bytes
    _ = completeFrame (s.withHeader.appended n bytes).withHeader.withLength := by
        rw [State.withLength_appended_withLength (hheader.bufferOk hbuf) (hheader.space hspace)]
    _ = (s.appended n bytes).parsed := by
        rw [State.withHeader_appended_withHeader hbuf hspace, State.parsed]

end

/-- Two chunks received one after the other are one chunk received (R154). -/
theorem State.received_received {s : State} {n k : U16} {xs : List Byte} (hbuf : s.bufferOk) (hfits : InlineFits n xs)
    (hspace : s.cursor.toNat + (n.toNat + k.toNat) ≤ s.capacity) (ys : List Byte) :
    (s.received n xs).received k ys = s.received (n + k) (xs ++ ys) := by
  have hn : s.cursor.toNat + n.toNat ≤ s.capacity := by omega
  have hbuf' : (s.appended n xs).bufferOk := hbuf.writeAll (.inr (by rw [hfits]; exact hn))
  have hspace' : (s.appended n xs).cursor.toNat + k.toNat ≤ (s.appended n xs).capacity := by
    rw [State.appended_cursor hn, Nat.add_assoc]
    exact hspace
  rw [State.received_eq_parsed, State.received_eq_parsed, State.parsed_appended_parsed hbuf' hspace',
    State.appended_appended hfits hn, State.received_eq_parsed]

/-! Receiving does not look at the responses given before. -/

section
variable (s : State) (r : Response)

theorem State.withHeader_respond : (s.respond r).withHeader = s.withHeader.respond r := by
  cases hheader : s.headerPresent with
  | true => rw [State.withHeader_of_present (s := s.respond r) hheader, State.withHeader_of_present hheader]
  | false =>
    cases hfound : findMagic (s.bytes 0 s.cursor.toNat) with
    | none => rw [State.withHeader_of_none (s := s.respond r) hfound, State.withHeader_of_none hfound]
    | some p =>
      rw [State.withHeader_of_found (s := s.respond r) hheader hfound, State.withHeader_of_found hheader hfound]
      rfl

theorem State.withLength_respond : (s.respond r).withLength = s.withLength.respond r := by
  by_cases hread : s.lengthArrived
  · rw [State.withLength_of_arrived (s := s.respond r) hread, State.withLength_of_arrived hread]
    rfl
  · rw [State.withLength_of_not_arrived (s := s.respond r) hread, State.withLength_of_not_arrived hread]

theorem completeFrame_respond : completeFrame (s.respond r) = (completeFrame s).respond r := by
  by_cases hend : s.frameArrived
  · rw [completeFrame_of_arrived (s := s.respond r) hend, completeFrame_of_arrived hend]
    rfl
  · rw [completeFrame_of_not_arrived (s := s.respond r) hend, completeFrame_of_not_arrived hend]

theorem State.received_respond (n : U16) (bytes : List Byte) :
    (s.respond r).received n bytes = (s.received n bytes).respond r := by
  have happended : (s.respond r).appended n bytes = (s.appended n bytes).respond r := rfl
  rw [State.received, happended, State.withHeader_respond, State.withLength_respond, completeFrame_respond,
    State.received]

end

/-- The length operand of a chunk that fits is its length (R86). -/
theorem inlineFits_feed {s : State} {bytes : List Byte} (hspace : bytes.length ≤ s.capacity) :
    InlineFits (BitVec.ofNat 16 bytes.length) bytes :=
  (toNat_ofNat_of_lt (Nat.lt_of_le_of_lt hspace s.capacity_lt)).symm

/-- One chunk of the stream that fits (R130). -/
theorem exec_feed {s : State} {bytes : List Byte} (hlock : s.lock = false) (htx : s.txStarted = false)
    (hspace : s.cursor.toNat + bytes.length ≤ s.capacity) :
    exec (feed bytes) s = .next ((s.received (BitVec.ofNat 16 bytes.length) bytes).respond ⟨.ok, 0, []⟩) := by
  have hfits := inlineFits_feed (Nat.le_trans (Nat.le_add_left ..) hspace)
  exact exec_addReceivedBytes_ok hfits hlock htx (by rw [← hfits]; exact hspace)

/-- A run of chunks that fits leaves the unit that their concatenation leaves (R154). -/
theorem runOk_feed {chunk : List Byte} {chunks : List (List Byte)} {s : State} (hbuf : s.bufferOk)
    (hlock : s.lock = false) (htx : s.txStarted = false)
    (hspace : s.cursor.toNat + (chunk ++ chunks.flatten).length ≤ s.capacity) :
    ∃ t, runOk ((chunk :: chunks).map feed) s = some t ∧
      t.unit = (s.received (BitVec.ofNat 16 (chunk ++ chunks.flatten).length) (chunk ++ chunks.flatten)).unit := by
  induction chunks generalizing chunk s with
  | nil =>
    rw [List.flatten_nil, List.append_nil] at hspace ⊢
    exact ⟨_, (runOk_cons (exec_feed hlock htx hspace) []).trans (runOk_nil _), rfl⟩
  | cons next rest ih =>
    rw [List.flatten_cons, List.length_append] at hspace
    have hchunk : s.cursor.toNat + chunk.length ≤ s.capacity := by omega
    have hfits := inlineFits_feed (Nat.le_trans (Nat.le_add_left ..) hchunk)
    have hrest := inlineFits_feed (s := s) (bytes := next ++ rest.flatten) (by omega)
    have hn : s.cursor.toNat + (BitVec.ofNat 16 chunk.length).toNat ≤ s.capacity := by rw [← hfits]; exact hchunk
    have hparsed := s.received_parsedFrom (BitVec.ofNat 16 chunk.length) chunk
    have hbuf' : (s.appended (BitVec.ofNat 16 chunk.length) chunk).bufferOk := hbuf.writeAll (.inr hchunk)
    have hspace' : (s.received (BitVec.ofNat 16 chunk.length) chunk).cursor.toNat + (next ++ rest.flatten).length ≤
        (s.appended (BitVec.ofNat 16 chunk.length) chunk).capacity := by
      rw [State.received_cursor hn, ← hfits, Nat.add_assoc]
      exact hspace
    rw [State.capacity, ← hparsed.config] at hspace'
    obtain ⟨t, hrun, hunit⟩ := ih (s := (s.received (BitVec.ofNat 16 chunk.length) chunk).respond ⟨.ok, 0, []⟩)
      (hparsed.bufferOk hbuf') (hparsed.lock.trans hlock) (hparsed.txStarted.trans htx) hspace'
    refine ⟨t, ?_, ?_⟩
    · rw [List.map_cons, runOk_cons (exec_feed hlock htx hchunk), hrun]
    · rw [hunit, State.received_respond, State.unit_respond,
        State.received_received hbuf hfits (by rw [← hfits, ← hrest]; exact hspace), List.flatten_cons,
        List.length_append (as := chunk), BitVec.ofNat_add]

/-- Settles O39. -/
theorem chunkingDoesNotMatter : Obligations.ChunkingDoesNotMatter := by
  intro s chunks h hlock htx hne hspace
  obtain ⟨chunk, chunks, rfl⟩ := List.exists_cons_of_ne_nil hne
  obtain ⟨t, hrun, hunit⟩ := runOk_feed h.bufferOk hlock htx hspace
  exact ⟨t, _, hrun, exec_feed hlock htx hspace, State.lastOk_respond .., hunit⟩

end Sys2Proof.Machine
end

section
/-! The checksum of a string with one byte changed (R188): the byte step has no collision, neither in the register nor
in the byte. -/

namespace Sys2Proof.Machine

/-- The bit that an inner step shifts out comes back at the top: the polynomial `0x8408` has bit 15 set (R185). -/
theorem getLsbD_crcBit (r : U16) : (crcBit r).getLsbD 15 = r.getLsbD 0 := by
  unfold crcBit
  split <;> simp_all

theorem crcBit_injective : Function.Injective crcBit := by
  intro r r' h
  have hout : r.getLsbD 0 = r'.getLsbD 0 := by rw [← getLsbD_crcBit, h, getLsbD_crcBit]
  have hshift : r >>> 1 = r' >>> 1 := by
    unfold crcBit at h
    rw [hout] at h
    split at h
    · exact (BitVec.xor_left_inj _).mp h
    · exact h
  apply BitVec.eq_of_getLsbD_eq
  intro i _
  cases i with
  | zero => exact hout
  | succ i =>
    have hbit := congrArg (·.getLsbD i) hshift
    simpa only [BitVec.getLsbD_ushiftRight, Nat.add_comm 1 i] using hbit

theorem crcBits_injective : Function.Injective crcBits := by
  have h2 := crcBit_injective.comp crcBit_injective
  have h4 := h2.comp h2
  exact h4.comp h4

/-- Different registers stay different under the same byte (R185). -/
theorem crcByte_left_injective (b : Byte) : Function.Injective (crcByte · b) :=
  fun _ _ h => (BitVec.xor_left_inj _).mp (crcBits_injective h)

/-- Different bytes make a register different (R185). -/
theorem crcByte_right_injective (r : U16) : Function.Injective (crcByte r) := by
  intro b b' h
  have hwide : b.setWidth 16 = b'.setWidth 16 := (BitVec.xor_right_inj _).mp (crcBits_injective h)
  apply BitVec.eq_of_toNat_eq
  rw [← toNat_setWidth_byte b, hwide, toNat_setWidth_byte]

/-- Different registers stay different under the same bytes (R185). -/
theorem crcRun_left_injective (bs : List Byte) : Function.Injective (crcRun · bs) := by
  induction bs with
  | nil => exact fun _ _ h => h
  | cons b bs ih => exact fun _ _ h => crcByte_left_injective b (ih h)

/-- One byte changed changes the checksum (R188). -/
theorem crc16Of_set_ne {bs : List Byte} {i : Nat} {b : Byte} (hi : i < bs.length) (hb : bs.getD i 0 ≠ b) :
    crc16Of (bs.set i b) ≠ crc16Of bs := by
  intro h
  have hrun : crcRun 0xFFFF (bs.set i b) = crcRun 0xFFFF bs := (BitVec.xor_left_inj _).mp h
  have hsplit : bs = bs.take i ++ bs[i] :: bs.drop (i + 1) := by
    rw [List.getElem_cons_drop, List.take_append_drop]
  rw [List.set_eq_take_append_cons_drop, if_pos hi] at hrun
  conv at hrun => rhs; rw [hsplit]
  simp only [crcRun, List.foldl_append, List.foldl_cons] at hrun
  have hbyte := crcByte_right_injective _ (crcRun_left_injective (bs.drop (i + 1)) hrun)
  rw [List.getD_eq_getElem _ _ hi] at hb
  exact hb hbyte.symm

end Sys2Proof.Machine
end

section
/-! A frame fed into an empty unit: whole, in part (R140), or with a byte of it damaged (R155). -/

namespace Sys2Proof.Machine

/-! Byte strings with one byte changed. -/

theorem getD_set_of_ne {bs : List Byte} {i j : Nat} (h : i ≠ j) (b : Byte) : (bs.set i b).getD j 0 = bs.getD j 0 := by
  rw [List.getD_eq_getElem?_getD, List.getElem?_set_ne h, ← List.getD_eq_getElem?_getD]

theorem getD_set_self {bs : List Byte} {i : Nat} (hi : i < bs.length) (b : Byte) : (bs.set i b).getD i 0 = b := by
  rw [List.getD_eq_getElem?_getD, List.getElem?_set_self hi, Option.getD_some]

/-- A 16-bit field is changed by a change of either byte (R51). -/
theorem u16_inj {lo hi lo' hi' : Byte} (h : u16 lo hi = u16 lo' hi') : lo = lo' ∧ hi = hi' := by
  have hbytes := congrArg le16 h
  rw [le16_u16, le16_u16] at hbytes
  simpa using hbytes

/-- The trailer of a valid frame is not the checksum of the frame in front of it any more once a byte of either is
changed (R188). -/
theorem ValidFrame.trailer_set_ne {frame : List Byte} {i : Nat} {b : Byte} (h : ValidFrame frame)
    (hi : i < frame.length) (hb : frame.getD i 0 ≠ b) :
    u16At (frame.set i b) (frame.length - 2) ≠ crc16Of ((frame.set i b).take (frame.length - 2)) := by
  obtain ⟨hlen, -, -, htrailer⟩ := h
  replace hlen : 14 ≤ frame.length := hlen
  replace htrailer : u16At frame (frame.length - 2) = crc16Of (frame.take (frame.length - 2)) := htrailer
  by_cases hbody : i < frame.length - 2
  · have hsame : u16At (frame.set i b) (frame.length - 2) = u16At frame (frame.length - 2) := by
      rw [u16At, getD_set_of_ne (by omega), getD_set_of_ne (by omega), u16At]
    rw [hsame, htrailer, List.take_set]
    refine (crc16Of_set_ne (by rw [List.length_take]; omega) ?_).symm
    rwa [List.getD_eq_getElem?_getD, List.getElem?_take_of_lt hbody, ← List.getD_eq_getElem?_getD]
  · rw [List.take_set_of_le (by omega), ← htrailer]
    intro hsame
    obtain ⟨hlo, hhi⟩ := u16_inj hsame
    obtain rfl | rfl : i = frame.length - 2 ∨ i = frame.length - 2 + 1 := by omega
    · exact hb (hlo.symm.trans (getD_set_self hi b))
    · exact hb (hhi.symm.trans (getD_set_self hi b))

/-! An empty unit. -/

/-- An empty unit has found nothing and has no build open (V3 to V6). -/
theorem State.Inv.nothing_of_empty {s : State} (h : s.Inv) (hempty : s.cursor.toNat = 0) :
    s.txStarted = false ∧ s.headerPresent = false ∧ s.lenValid = false ∧ s.packetComplete = false := by
  have hheader : s.headerPresent = false := Bool.eq_false_iff.mpr fun hheader => by
    have := (h.headerIsMagic hheader).1
    omega
  have hlength : s.lenValid = false := Bool.eq_false_iff.mpr fun hlength => nomatch
    hheader.symm.trans (h.lengthHasHeader hlength)
  refine ⟨Bool.eq_false_iff.mpr fun htx => ?_, hheader, hlength, Bool.eq_false_iff.mpr fun hcomplete => nomatch
    hlength.symm.trans (h.completeHasFrame hcomplete).1⟩
  obtain ⟨-, hcursor, -⟩ := h.buildIsStarted.1 htx
  omega

/-- What an empty unit has received stands at the start of its buffer, and the cursor behind it. -/
theorem State.received_of_empty {s : State} {bytes : List Byte} (hwf : s.buf.wf = true) (hempty : s.cursor.toNat = 0)
    (hspace : bytes.length ≤ s.capacity) :
    (s.received (BitVec.ofNat 16 bytes.length) bytes).cursor.toNat = bytes.length ∧
      (s.received (BitVec.ofNat 16 bytes.length) bytes).bytes 0
        (s.received (BitVec.ofNat 16 bytes.length) bytes).cursor.toNat = bytes := by
  have hfits := inlineFits_feed hspace
  have hcursor : (s.received (BitVec.ofNat 16 bytes.length) bytes).cursor.toNat = bytes.length := by
    rw [State.received_cursor (by omega), hempty, Nat.zero_add, ← hfits]
  refine ⟨hcursor, ?_⟩
  rw [hcursor, State.received_bytes, State.appended, hempty]
  exact Memory.readRange_writeAll_self hwf 0 bytes

/-- A complete frame at the start of the buffer, its bytes being `f`. -/
structure State.Delivered (t : State) (f : List Byte) : Prop where
  packetComplete : t.packetComplete = true
  hdrOff : t.hdrOff.toNat = 0
  expectedLen : t.expectedLen.toNat = f.length
  bytes : t.bytes 0 f.length = f
  inBuffer : f.length ≤ t.capacity

/-- A string that begins with the magic header and its own length, received whole into an empty unit, is a complete
frame (R131, R135, R136). -/
theorem State.Inv.delivered {s : State} {f : List Byte} (h : s.Inv) (hempty : s.cursor.toNat = 0)
    (hspace : f.length ≤ s.capacity) (hlen : 7 ≤ f.length) (hmagic : f.take 5 = magic)
    (hfield : (u16At f 5).toNat = f.length) : (s.received (BitVec.ofNat 16 f.length) f).Delivered f := by
  obtain ⟨-, hheader, hunknown, -⟩ := h.nothing_of_empty hempty
  obtain ⟨hcursor, hbytes⟩ := State.received_of_empty h.bufferOk.1 hempty hspace
  have hbyte {a : Nat} (ha : a < f.length) :
      (s.received (BitVec.ofNat 16 f.length) f).byteAt a = f.getD a 0 := by
    conv_rhs => rw [← hbytes, State.getD_bytes _ (by omega), Nat.zero_add]
  obtain ⟨hheader', hoff, -⟩ := State.received_header_found (s := s) (n := BitVec.ofNat 16 f.length) (bytes := f)
    hheader (by rw [hbytes]; exact findMagic_of_take hmagic)
  rw [hcursor] at hbytes
  obtain ⟨hlength, hexpected⟩ := State.received_length_read (s := s) (n := BitVec.ofNat 16 f.length) (bytes := f)
    ⟨hheader', hunknown, by rw [hoff, hcursor]; omega⟩
  have hexpected' : (s.received (BitVec.ofNat 16 f.length) f).expectedLen.toNat = f.length := by
    rw [hexpected, hoff, hbyte (by omega), hbyte (by omega), ← hfield, u16At]
  exact {
    packetComplete := (s.received_complete_iff _ f).mpr
      (.inr ⟨hheader', hlength, by rw [hoff, hexpected', hcursor, Nat.zero_add]⟩)
    hdrOff := hoff
    expectedLen := hexpected'
    bytes := hbytes
    inBuffer := by rw [State.capacity, (s.received_parsedFrom _ f).config]; exact hspace }

namespace State.Delivered
variable {t : State} {f : List Byte} (h : t.Delivered f) (hlen : 14 ≤ f.length)
include h

theorem respond (r : Response) : (t.respond r).Delivered f where
  packetComplete := h.packetComplete
  hdrOff := h.hdrOff
  expectedLen := h.expectedLen
  bytes := h.bytes
  inBuffer := h.inBuffer

theorem frameInBuffer (_ : t.packetComplete = true) : t.hdrOff.toNat + t.expectedLen.toNat ≤ t.capacity := by
  rw [h.hdrOff, h.expectedLen, Nat.zero_add]
  exact h.inBuffer

theorem byteAt {a : Nat} (ha : a < f.length) : t.byteAt a = f.getD a 0 := by
  conv_rhs => rw [← h.bytes, State.getD_bytes _ ha, Nat.zero_add]

theorem bytes_take {k : Nat} (hk : k ≤ f.length) : t.bytes 0 k = f.take k := by
  rw [← h.bytes, State.bytes, State.bytes, Nat.sub_zero, Nat.sub_zero, Memory.take_readRange _ hk]

theorem trailerOff : t.hdrOff.toNat + t.expectedLen.toNat - 2 = f.length - 2 := by
  rw [h.hdrOff, h.expectedLen, Nat.zero_add]

include hlen

/-- The trailer of a delivered frame, in the buffer (R78). -/
theorem u16_trailer : u16 (t.byteAt (f.length - 2)) (t.byteAt (f.length - 2 + 1)) = u16At f (f.length - 2) := by
  rw [h.byteAt (by omega), h.byteAt (by omega), u16At]

/-- A delivered valid frame is valid where it stands (R138). -/
theorem frameValid (hvalid : ValidFrame f) : t.frameValid := by
  obtain ⟨-, hmagic, -, htrailer⟩ := hvalid
  have hlast : t.hdrOff.toNat + t.expectedLen.toNat - 1 = f.length - 2 + 1 := by
    rw [h.hdrOff, h.expectedLen]
    omega
  refine ⟨h.packetComplete, by rw [h.expectedLen]; exact hlen, ?_, ?_⟩
  · rw [hlast, h.trailerOff, h.u16_trailer hlen, h.hdrOff, h.bytes_take (Nat.sub_le ..)]
    exact htrailer
  · rw [h.hdrOff, Nat.zero_add, h.bytes_take (by omega)]
    exact hmagic

/-- A delivered frame whose trailer is not its checksum validates as corrupted (R138). -/
theorem exec_validateData (htrailer : u16At f (f.length - 2) ≠ crc16Of (f.take (f.length - 2))) :
    exec .validateData t = .next (t.fail .packageCorrupted) := by
  obtain ⟨-, -, hcorrupted, -⟩ := validateDataAnswersInOrder t h.frameInBuffer
  rw [h.trailerOff, h.u16_trailer hlen, h.hdrOff, h.bytes_take (Nat.sub_le ..)] at hcorrupted
  exact hcorrupted h.packetComplete (by rw [h.expectedLen]; exact hlen) htrailer

end State.Delivered

/-- While a proper part of a frame is all that has been received, no frame is complete: a header found is the frame's
own, and so is a length read (V4, V5, V10). -/
theorem not_complete_of_part {t : State} {frame : List Byte} (hinv : t.Inv) (htx : t.txStarted = false)
    (hframe : ValidFrame frame) (hpart : t.bytes 0 t.cursor.toNat <+: frame) (hproper : t.cursor.toNat < frame.length) :
    t.packetComplete = false := by
  refine Bool.eq_false_iff.mpr fun hcomplete => ?_
  obtain ⟨-, hmagic, hfield, -⟩ := hframe
  obtain ⟨hlength, hend⟩ := hinv.completeHasFrame hcomplete
  obtain ⟨hin, hexpected⟩ := hinv.lengthIsField hlength
  have hfound := (hinv.headerIsFirst htx).2 (hinv.lengthHasHeader hlength)
  obtain ⟨rest, rfl⟩ := hpart
  have hfront : (t.bytes 0 t.cursor.toNat).take 5 = magic := by
    rw [← hmagic]
    exact (List.take_append_of_le_length (by rw [State.length_bytes]; omega)).symm
  rw [findMagic_of_take hfront, Option.some.injEq] at hfound
  have hbyte {a : Nat} (ha : a < t.cursor.toNat) : t.byteAt a = (t.bytes 0 t.cursor.toNat ++ rest).getD a 0 := by
    rw [List.getD_append _ _ _ _ (by rw [State.length_bytes]; exact ha), State.getD_bytes t (by exact ha), Nat.zero_add]
  rw [← hfound, hbyte (by omega), hbyte (by omega)] at hexpected
  have hlen : t.expectedLen.toNat = (t.bytes 0 t.cursor.toNat ++ rest).length :=
    (congrArg BitVec.toNat hexpected).trans hfield
  omega

/-- Settles O49: a part completes no frame, and the whole is delivered. -/
theorem aFrameIsAvailableExactlyWhenWhole : Obligations.AFrameIsAvailableExactlyWhenWhole := by
  intro s frame k h hcursor hlock hframe hspace hk
  have hempty : s.cursor.toNat = 0 := congrArg BitVec.toNat hcursor
  obtain ⟨htx, -⟩ := h.nothing_of_empty hempty
  have hpart : (frame.take k).length = k := List.length_take_of_le hk
  have hexec := exec_feed (bytes := frame.take k) hlock htx (by omega)
  refine ⟨_, hexec, State.lastOk_respond .., ?_⟩
  have hinv := h.exec hexec
  obtain ⟨havailable, hnot⟩ := dataAvailableSaysWhetherTheFrameIsValid _ hinv.frameInBuffer
  by_cases hwhole : k = frame.length
  · rw [if_pos hwhole]
    refine havailable ?_
    obtain ⟨hlen, hmagic, hfield, -⟩ := id hframe
    replace hlen : 14 ≤ frame.length := hlen
    rw [hwhole, List.take_length]
    exact ((h.delivered hempty hspace (by omega) hmagic hfield).respond _).frameValid hlen hframe
  · rw [if_neg hwhole]
    refine hnot fun hvalid => ?_
    obtain ⟨hend, hbytes⟩ := State.received_of_empty h.bufferOk.1 hempty (bytes := frame.take k) (by omega)
    have hopen := not_complete_of_part hinv ((s.received_parsedFrom _ (frame.take k)).txStarted.trans htx) hframe
      (hbytes.symm ▸ List.take_prefix k frame) (hend.trans_lt (by omega))
    exact nomatch hvalid.1.symm.trans hopen

/-- Settles O50: the damaged frame still begins with its header and its length, so it is delivered, but its trailer is
not its checksum. -/
theorem oneDamagedByteIsFoundCorrupt : Obligations.OneDamagedByteIsFoundCorrupt := by
  intro s frame i b h hcursor hlock hframe hspace h7 hi hb
  have hempty : s.cursor.toNat = 0 := congrArg BitVec.toNat hcursor
  obtain ⟨htx, -⟩ := h.nothing_of_empty hempty
  have hlength : (frame.set i b).length = frame.length := List.length_set
  refine ⟨_, exec_feed hlock htx (by omega), State.lastOk_respond .., ?_⟩
  obtain ⟨hlen, hmagic, hfield, -⟩ := id hframe
  replace hlen : 14 ≤ frame.length := hlen
  have hmagic' : (frame.set i b).take 5 = magic := by rw [List.take_set_of_le (by omega)]; exact hmagic
  have hfield' : (u16At (frame.set i b) 5).toNat = (frame.set i b).length := by
    rw [u16At, getD_set_of_ne (by omega), getD_set_of_ne (by omega), hlength]
    exact hfield
  have hdelivered := h.delivered hempty (by omega) (by omega) hmagic' hfield'
  have htrailer := hframe.trailer_set_ne hi hb
  rw [← hlength] at htrailer
  exact (hdelivered.respond _).exec_validateData (by omega) htrailer

end Sys2Proof.Machine
end

section
/-! The two scan commands (R160 to R162): the scan stops no later than at any occurrence of the magic header, so what it
finds is the least one; the length peek reads the string of its packet. -/

namespace Sys2Proof.Machine

/-- The scan passes over no occurrence of the magic header (R160). -/
theorem exists_findMagic_le {bs : List Byte} {p : Nat} (h : (bs.drop p).take 5 = magic) :
    ∃ q, q ≤ p ∧ findMagic bs = some q := by
  induction bs generalizing p with
  | nil => rw [List.drop_nil] at h; cases h
  | cons b rest ih =>
    by_cases hfront : (b :: rest).take 5 = magic
    · exact ⟨0, Nat.zero_le p, findMagic_of_take hfront⟩
    · cases p with
      | zero => exact absurd h hfront
      | succ p =>
        obtain ⟨q, hle, hfound⟩ := ih h
        exact ⟨q + 1, Nat.succ_le_succ hle, by rw [findMagic_cons, if_neg hfront, hfound, Option.map_some]⟩

/-- The scan finds nothing exactly where the magic header stands nowhere (R160). -/
theorem findMagic_eq_none_iff {bs : List Byte} : findMagic bs = none ↔ ∀ p, (bs.drop p).take 5 ≠ magic := by
  constructor
  · intro hnone p hmagic
    obtain ⟨q, -, hfound⟩ := exists_findMagic_le hmagic
    exact nomatch hnone.symm.trans hfound
  · exact fun hnowhere => Option.eq_none_iff_forall_ne_some.mpr fun p hfound =>
      hnowhere p (findMagic_eq_some hfound).2

/-- Settles O51: the occurrence found is the least one, for the scan passes over none. -/
theorem findMagicIsTheLeastOccurrence : Obligations.FindMagicIsTheLeastOccurrence := by
  refine fun bytes => ⟨fun p => ⟨fun hfound => ?_, fun ⟨_, hmagic, hleast⟩ => ?_⟩, findMagic_eq_none_iff⟩
  · obtain ⟨hlen, hmagic⟩ := findMagic_eq_some hfound
    refine ⟨hlen, hmagic, fun q hq hearlier => ?_⟩
    obtain ⟨q', hle, hfound'⟩ := exists_findMagic_le hearlier
    have hsame : p = q' := Option.some.inj (hfound.symm.trans hfound')
    omega
  · obtain ⟨q, hle, hfound⟩ := exists_findMagic_le hmagic
    have hnotBefore : ¬q < p := fun hq => hleast q hq (findMagic_eq_some hfound).2
    rw [hfound, Nat.le_antisymm hle (Nat.not_lt.mp hnotBefore)]

/-- Settles O52: an occurrence ends inside a string of at most 65535 bytes, so its offset fits the value. -/
theorem findHeaderPositionAnswersTheOffset : Obligations.FindHeaderPositionAnswersTheOffset := by
  intro s n bytes hfits
  simp only [exec, execFindHeaderPosition, State.answer_ok]
  refine ⟨fun hnone => ?_, fun p hfound => ?_⟩
  · rw [hnone]
    rfl
  · have hin := (findMagic_eq_some hfound).1
    have hlen : bytes.length = n.toNat := hfits
    refine ⟨by omega, BitVec.ofNat 16 p, toNat_ofNat_of_lt (by omega), ?_⟩
    rw [hfound]
    rfl

/-- Settles O53: within the bound both bytes of the length field lie in the string. -/
theorem getMessageBufferLenPeeksTheLength : Obligations.GetMessageBufferLenPeeksTheLength := by
  intro s hpos n bytes hfits
  have hlen : bytes.length = n.toNat := hfits
  simp only [exec, execGetMessageBufferLen]
  refine ⟨fun hbound => ?_, fun hbound => ⟨_, _, _, List.getElem?_eq_getElem (by omega),
    List.getElem?_eq_getElem (by omega), u16_toNat .., ?_⟩⟩
  · rw [raiseIf_pos hbound, Cmd.error_bind, State.answer_raise]
  · rw [raiseIf_neg (Nat.not_lt.mpr hbound), Cmd.ok_bind, Cmd.pure_eq, State.answer_ok,
      List.getD_eq_getElem _ _ (by omega), List.getD_eq_getElem _ _ (by omega)]
    rfl

end Sys2Proof.Machine
end

section
/-! The lifecycle commands (R170 to R175): the lock and the reset write registers and leave the buffer; the two queries
read the lock and the register map. -/

namespace Sys2Proof.Machine

/-! The register map. -/

/-- The numbers above 7 are reserved (R175). -/
theorem State.registerContent_eq_none_iff {s : State} {reg : Byte} : s.registerContent reg = none ↔ 7 < reg.toNat := by
  unfold State.registerContent
  split <;> simp only [reduceCtorEq, true_iff, false_iff, imp_false] at *
  all_goals omega

/-- The five flags are the bits of the `STATUS` word, so the word holds their sum (R36). -/
theorem State.toNat_statusWord (s : State) :
    s.statusWord.toNat = s.lock.toNat + 2 * s.headerPresent.toNat + 4 * s.packetComplete.toNat +
      8 * s.lenValid.toNat + 16 * s.txStarted.toNat := by
  have hlock := s.lock.toNat_le
  have hheader := s.headerPresent.toNat_le
  have hcomplete := s.packetComplete.toNat_le
  have hlen := s.lenValid.toNat_le
  have htx := s.txStarted.toNat_le
  exact toNat_ofNat_of_lt (by omega)

/-- `READ_REG` of a reserved number fails. -/
theorem exec_readReg_of_none {s : State} {reg : Byte} (h : s.registerContent reg = none) :
    exec (.readReg reg) s = .next (s.fail .invalidParameter) := by
  rw [exec, execReadReg, h, State.answer_raise]

/-- `READ_REG` of a register answers what the map holds for it and writes nothing. -/
theorem exec_readReg_of_some {s : State} {reg : Byte} {v : U16} (h : s.registerContent reg = some v) :
    exec (.readReg reg) s = .next (s.respond ⟨.ok, v, []⟩) := by
  rw [exec, execReadReg, h, State.answer_ok, State.reply]

/-- Settles O24: the map holds a word for each number up to 7, and `READ_REG` answers that word. -/
theorem readRegReadsTheRegisterMap : Obligations.ReadRegReadsTheRegisterMap := by
  refine fun s reg => ⟨fun hreserved => exec_readReg_of_none (State.registerContent_eq_none_iff.mpr hreserved),
    fun hreg => ?_⟩
  have hmapped : s.registerContent reg ≠ none := mt State.registerContent_eq_none_iff.mp (Nat.not_lt.mpr hreg)
  obtain ⟨v, hv⟩ := Option.ne_none_iff_exists'.mp hmapped
  refine ⟨v, exec_readReg_of_some hv, ?status, ?cursor, ?expectedLen, ?hdrOff, ?snap01, ?snap23, ?snap4, ?cap⟩
  case status =>
    rintro rfl
    obtain rfl : s.statusWord = v := Option.some.inj hv
    exact s.toNat_statusWord
  case snap01 | snap23 =>
    rintro rfl
    obtain rfl := Option.some.inj hv
    exact u16_toNat ..
  case snap4 =>
    rintro rfl
    obtain rfl : u16 s.hdrSnap.b4 0 = v := Option.some.inj hv
    exact u16_toNat ..
  case cursor | expectedLen | hdrOff | cap =>
    rintro rfl
    exact (Option.some.inj hv).symm

/-! The lock and the reset. -/

/-- Settles O20: what the reset writes is, field by field, the power-on value of R42. -/
theorem resetBufferRestoresTheResetState : Obligations.ResetBufferRestoresTheResetState := by
  rintro s t rfl
  refine ⟨?_, rfl⟩
  rw [exec, execResetBuffer, State.answer_ok, HdrSnap.zero]

/-- Settles O21: the lock check alone decides, and behind it only `LOCK` is written. -/
theorem lockBufferTestsAndSets : Obligations.LockBufferTestsAndSets := by
  refine fun s => ⟨fun hlock => ?_, fun hlock => ?_⟩
  · rw [exec, execLockBuffer, lockCheck_locked hlock, Cmd.error_bind, State.answer_raise]
  · rw [exec, execLockBuffer, lockCheck_unlocked hlock, Cmd.ok_bind, Cmd.pure_eq, State.answer_ok]

/-- Settles O22: there is no check in front of the write of `LOCK`. -/
theorem unlockBufferClearsTheLock : Obligations.UnlockBufferClearsTheLock := fun s => by
  rw [exec, execUnlockBuffer, State.answer_ok]

/-- Settles O23: the value is the number of the flag. -/
theorem getLockStatusReadsTheLock : Obligations.GetLockStatusReadsTheLock := by
  intro s
  have hvalue : BitVec.ofNat 16 s.lock.toNat = if s.lock = true then 1 else 0 := by
    cases s.lock with
    | false => rfl
    | true => rfl
  rw [exec, execGetLockStatus, State.answer_ok, State.reply, hvalue]

end Sys2Proof.Machine
end

section
/-! The checksum as a linear map (R185): an inner step is xor-linear, eight of them read the high byte of the register
back unchanged, and so two bytes enter the register together, as one 16-bit value. -/

namespace Sys2Proof.Machine

/-! The inner step over xor. -/

theorem crcBit_of_odd {r : U16} (h : r.getLsbD 0 = true) : crcBit r = (r >>> 1) ^^^ 0x8408 := if_pos h

theorem crcBit_of_even {r : U16} (h : r.getLsbD 0 = false) : crcBit r = r >>> 1 := if_neg (ne_true_of_eq_false h)

/-- The polynomial is xored in for one of two registers exactly when it is for their xor; for both, it cancels. -/
theorem crcBit_xor (r r' : U16) : crcBit (r ^^^ r') = crcBit r ^^^ crcBit r' := by
  have hbit : (r ^^^ r').getLsbD 0 = (r.getLsbD 0 ^^ r'.getLsbD 0) := BitVec.getLsbD_xor
  have hshift : (r ^^^ r') >>> 1 = r >>> 1 ^^^ r' >>> 1 := BitVec.ushiftRight_xor_distrib ..
  cases h : r.getLsbD 0 <;> cases h' : r'.getLsbD 0 <;> rw [h, h'] at hbit
  · rw [crcBit_of_even hbit, crcBit_of_even h, crcBit_of_even h', hshift]
  · rw [crcBit_of_odd hbit, crcBit_of_even h, crcBit_of_odd h', hshift, BitVec.xor_assoc]
  · rw [crcBit_of_odd hbit, crcBit_of_odd h, crcBit_of_even h', hshift, BitVec.xor_assoc, BitVec.xor_assoc,
      BitVec.xor_comm (r' >>> 1)]
  · rw [crcBit_of_even hbit, crcBit_of_odd h, crcBit_of_odd h', hshift]
    rw [BitVec.xor_comm (r' >>> 1), BitVec.xor_assoc, ← BitVec.xor_assoc 0x8408, BitVec.xor_self, BitVec.zero_xor]

theorem crcBits_xor (r r' : U16) : crcBits (r ^^^ r') = crcBits r ^^^ crcBits r' := by
  simp only [crcBits, crcBit_xor]

/-! The inner steps over the high byte. -/

/-- As long as only zeros are shifted out, the inner steps are a shift. -/
theorem crcBit_iterate_of_low_zero {r : U16} {k : Nat} (h : ∀ i < k, r.getLsbD i = false) :
    crcBit^[k] r = r >>> k := by
  induction k with
  | zero => simp
  | succ k ih =>
    have heven : (r >>> k).getLsbD 0 = false := by simpa using h k (Nat.lt_succ_self k)
    rw [Function.iterate_succ_apply', ih fun i hi => h i (Nat.lt_succ_of_lt hi), crcBit_of_even heven,
      BitVec.shiftRight_add]

/-- A byte in the high half of the register is moved into the low half. -/
theorem crcBits_highByte (b : Byte) : crcBits (b.setWidth 16 <<< 8) = b.setWidth 16 := by
  have hlow : ∀ i < 8, (b.setWidth 16 <<< 8).getLsbD i = false := by
    intro i hi
    simp [hi]
  calc crcBits (b.setWidth 16 <<< 8)
    _ = b.setWidth 16 <<< 8 >>> 8 := crcBit_iterate_of_low_zero hlow
    _ = b.setWidth 16 := by
      apply BitVec.eq_of_toNat_eq
      have := b.isLt
      simp [Nat.shiftRight_eq_div_pow, Nat.shiftLeft_eq]
      omega

/-! Two bytes as one 16-bit value. -/

/-- The bytes of a 16-bit value do not overlap (R51). -/
theorem u16_eq_xor (lo hi : Byte) : u16 lo hi = lo.setWidth 16 ^^^ hi.setWidth 16 <<< 8 := by
  apply BitVec.eq_of_getLsbD_eq
  intro i hi16
  have hbit : (lo.toNat + 256 * hi.toNat).testBit i = if i < 8 then lo.getLsbD i else hi.getLsbD (i - 8) := by
    rw [Nat.add_comm]
    exact Nat.testBit_two_pow_mul_add hi.toNat lo.isLt i
  rw [u16, BitVec.getLsbD_ofNat, hbit]
  by_cases hi8 : i < 8
  · simp [hi16, hi8]
  · simp [hi16, hi8, BitVec.getLsbD_of_ge lo i (Nat.le_of_not_lt hi8)]

theorem u16_ushiftRight (lo hi : Byte) : u16 lo hi >>> 8 = hi.setWidth 16 := by
  apply BitVec.eq_of_toNat_eq
  have hlo := lo.isLt
  rw [BitVec.toNat_ushiftRight, u16_toNat, toNat_setWidth_byte, Nat.shiftRight_eq_div_pow]
  omega

theorem u16_lowByte (lo hi : Byte) : (u16 lo hi &&& 0xFF).setWidth 8 = lo := by
  apply BitVec.eq_of_toNat_eq
  have hlo := lo.isLt
  have hmask : (u16 lo hi).toNat &&& 255 = (u16 lo hi).toNat % 256 := Nat.and_two_pow_sub_one_eq_mod _ 8
  rw [BitVec.toNat_setWidth, BitVec.toNat_and]
  show ((u16 lo hi).toNat &&& 255) % 256 = lo.toNat
  rw [hmask, u16_toNat]
  omega

/-- The eight inner steps look the low byte up in the table and leave the high byte as it is (R186). -/
theorem crcBits_u16 (lo hi : Byte) : crcBits (u16 lo hi) = hi.setWidth 16 ^^^ crcTable lo := by
  rw [u16_eq_xor, crcBits_xor, crcBits_highByte, crcTable, BitVec.xor_comm]

/-- Two bytes enter the register together, as the 16-bit value whose bytes they are (R185). -/
theorem crcRun_le16 (r v : U16) : crcRun r (le16 v) = crcBits (crcBits (r ^^^ v)) := by
  obtain ⟨lo, hi, hbytes, rfl⟩ := le16_eq v
  rw [hbytes]
  calc crcRun r [lo, hi]
    _ = crcBits (crcBits (r ^^^ lo.setWidth 16) ^^^ hi.setWidth 16) := rfl
    _ = crcBits (crcBits (r ^^^ lo.setWidth 16) ^^^ crcBits (hi.setWidth 16 <<< 8)) := by rw [crcBits_highByte]
    _ = crcBits (crcBits (r ^^^ u16 lo hi)) := by rw [← crcBits_xor, BitVec.xor_assoc, ← u16_eq_xor]

/-- Different 16-bit values make a register different. -/
theorem crcRun_le16_injective (r : U16) : Function.Injective (fun v => crcRun r (le16 v)) := by
  intro v v' h
  simp only [crcRun_le16] at h
  exact (BitVec.xor_right_inj _).mp (crcBits_injective (crcBits_injective h))

end Sys2Proof.Machine
end

section
/-! The statements about the checksum (R186 to R190). -/

namespace Sys2Proof.Machine

/-! The table form (R186). -/

theorem crcByteByTable_eq_crcByte (r : U16) (b : Byte) : crcByteByTable r b = crcByte r b := by
  obtain ⟨lo, hi, -, hindex⟩ := le16_eq (r ^^^ b.setWidth 16)
  have hhigh : r >>> 8 = hi.setWidth 16 := by
    have hbyte : b.setWidth 16 >>> 8 = 0#16 := by
      apply BitVec.eq_of_toNat_eq
      rw [BitVec.toNat_ushiftRight, toNat_setWidth_byte, Nat.shiftRight_eq_div_pow]
      exact Nat.div_eq_of_lt b.isLt
    rw [← u16_ushiftRight lo hi, hindex, BitVec.ushiftRight_xor_distrib, hbyte, BitVec.xor_zero]
  rw [crcByteByTable, crcByte, ← hindex, crcBits_u16, u16_lowByte, hhigh]

/-- Settles O56. -/
theorem crcTableFormAgrees : Obligations.CrcTableFormAgrees :=
  ⟨crcByteByTable_eq_crcByte, by decide⟩

/-! A change within two neighbouring bytes (R188). -/

theorem crcRun_append (r : U16) (bs bs' : List Byte) : crcRun r (bs ++ bs') = crcRun (crcRun r bs) bs' :=
  List.foldl_append

/-- Different strings of at most two bytes make a register different. -/
theorem crcRun_right_injective {r : U16} {bs bs' : List Byte} (hlen : bs.length = bs'.length) (htwo : bs.length ≤ 2)
    (h : crcRun r bs = crcRun r bs') : bs = bs' := by
  match bs, bs', hlen, htwo with
  | [], [], _, _ => rfl
  | [b], [b'], _, _ => rw [crcByte_right_injective r h]
  | [lo, hi], [lo', hi'], _, _ =>
    rw [← le16_u16 lo hi, ← le16_u16 lo' hi'] at h ⊢
    rw [crcRun_le16_injective r h]

/-- Settles O57: the registers differ after the changed bytes, and the bytes behind them keep them different. -/
theorem crcDetectsChangesWithinTwoBytes : Obligations.CrcDetectsChangesWithinTwoBytes := by
  intro before changed changed' after hlen htwo hne h
  have hrun := (BitVec.xor_left_inj _).mp h
  simp only [crcRun_append] at hrun
  exact hne (crcRun_right_injective hlen htwo (crcRun_left_injective after hrun))

/-! The residue (R189). -/

/-- The register after a message and its trailer is `0xF0B8`, what sixteen inner steps make of the seed (R189). -/
theorem crcRun_le16_eq_residue_iff (r v : U16) : crcRun r (le16 v) = 0xF0B8 ↔ v = r ^^^ 0xFFFF := by
  have hresidue : crcRun r (le16 (r ^^^ 0xFFFF)) = 0xF0B8 := by
    rw [crcRun_le16, ← BitVec.xor_assoc, BitVec.xor_self, BitVec.zero_xor,
      show crcBits 0xFFFF = 0x0F87 by decide]
    decide
  rw [← hresidue]
  exact (crcRun_le16_injective r).eq_iff

/-- Settles O58. -/
theorem crcResidueRecognisesTheTrailer : Obligations.CrcResidueRecognisesTheTrailer := by
  intro bytes trailer
  have hfinal : (0x0F47 : U16) = 0xF0B8 ^^^ 0xFFFF := by decide
  rw [crc16Of, crcRun_append, hfinal, BitVec.xor_left_inj]
  exact crcRun_le16_eq_residue_iff _ trailer

/-! The command (R190). -/

/-- Settles O54: `CRC16` is a query that cannot fail. -/
theorem crc16CommandAnswersTheChecksum : Obligations.Crc16CommandAnswersTheChecksum := by
  intro s n bytes
  rw [exec, execCrc16, State.answer_ok, State.reply]

end Sys2Proof.Machine
end

section
/-! The failures of every command (R202, R203, R205): how a query can end, the codes and the unchanged state of a
failed command, and the lock. -/

namespace Sys2Proof.Machine

/-! What raises no code, and what `Validate()` can answer. -/

/-- The pseudocode `c` returns or stops: it raises no code. -/
def NeverRaises {α} (c : Cmd α) : Prop := ∀ code, c ≠ .error (.raise code)

namespace NeverRaises
variable {α β : Type} {s : State}

theorem ret {a : α} : NeverRaises (.ok a : Cmd α) := fun _ h => nomatch h

theorem bind {x : Cmd α} {f : α → Cmd β} (hx : NeverRaises x) (hf : ∀ a, NeverRaises (f a)) :
    NeverRaises (x >>= f) := by
  intro code h
  obtain hraise | ⟨a, -, hraise⟩ := Cmd.bind_eq_error.mp h
  · exact hx code hraise
  · exact hf a code hraise

theorem memRead1 {a : Nat} : NeverRaises (s.memRead1 a) := fun _ => State.memRead1_no_raise

theorem memRead2 {a : Nat} : NeverRaises (s.memRead2 a) := fun _ => State.memRead2_no_raise

theorem memBytes {a b : Nat} : NeverRaises (s.memBytes a b) := fun _ => State.memBytes_no_raise

/-- `Validate()` answers its code, it does not raise it (R138). -/
theorem validate : NeverRaises (validate s) := by
  unfold Machine.validate
  split_ifs
  · exact ret
  · exact ret
  · refine bind memRead2 fun trailer => bind memBytes fun body => ?_
    split_ifs
    · exact ret
    · refine bind memBytes fun header => ?_
      split_ifs
      · exact ret
      · exact ret

/-- Leaving the item section is an answer of the walk (R144). -/
theorem walkFrom (k p : Nat) : NeverRaises (walkFrom s k p) := by
  induction k generalizing p with
  | zero =>
    unfold Machine.walkFrom
    split_ifs
    · exact ret
    · refine bind memRead2 fun len => ?_
      split_ifs
      · exact ret
      · exact ret
  | succ k ih =>
    unfold Machine.walkFrom
    split_ifs
    · exact ret
    · refine bind memRead2 fun len => ?_
      split_ifs
      · exact ret
      · exact ih _

end NeverRaises

/-- Whatever the frame, `Validate()` answers `OK` or one of its three failures (R138). -/
theorem validate_codes {s : State} {code : ResultCode} (h : validate s = .ok code) :
    code = .ok ∨ code ∈ [.packageNotComplete, .packageCorrupted, .packageNotValid] := by
  unfold validate at h
  split_ifs at h
  · cases h
    decide
  · cases h
    decide
  · obtain ⟨trailer, -, h⟩ := Cmd.bind_eq_ok.mp h
    obtain ⟨body, -, h⟩ := Cmd.bind_eq_ok.mp h
    split_ifs at h
    · cases h
      decide
    · obtain ⟨header, -, h⟩ := Cmd.bind_eq_ok.mp h
      split_ifs at h
      · cases h
        decide
      · cases h
        decide

/-- `RequireValid()` raises one of the three failures of `Validate()` (R145). -/
theorem requireValid_codes {s : State} {code : ResultCode} (h : requireValid s = .error (.raise code)) :
    code ∈ [.packageNotComplete, .packageCorrupted, .packageNotValid] := by
  obtain hraise | ⟨code', hcode, hraise⟩ := Cmd.bind_eq_error.mp h
  · exact absurd hraise (NeverRaises.validate code)
  · obtain ⟨hne, heq⟩ := raiseIf_eq_error.mp hraise
    cases heq
    exact (validate_codes hcode).resolve_left hne

/-! How a query can end. -/

namespace Ends
variable {codes : List ResultCode} {P : State → Prop} {s : State}

/-- `raise`. -/
theorem raise {code : ResultCode} (hcode : code ∈ codes) : Ends codes P (.error (.raise code)) := by
  refine ⟨.raise, fun code' h => ?_⟩
  cases h
  exact hcode

/-- A part in front that raises nothing. -/
theorem noRaise {α} {x : Cmd α} {f : α → Cmd Done} (hx : NeverRaises x) (hf : ∀ a, Ends codes P (f a)) :
    Ends codes P (x >>= f) :=
  observe (fun code h => absurd h (hx code)) fun a _ => hf a

/-- `RequireValid()` in front (R145). -/
theorem valid {f : Unit → Cmd Done} (hcodes : [.packageNotComplete, .packageCorrupted, .packageNotValid] ⊆ codes)
    (hf : Ends codes P (f ())) : Ends codes P (requireValid s >>= f) :=
  observe (fun _ h => hcodes (requireValid_codes h)) fun _ _ => hf

/-- A field of the valid frame answered (R142, R149 to R152). -/
theorem validField {α} {x : Cmd α} {value : α → U16} (hx : NeverRaises x) (hP : P s) :
    Ends [.packageNotComplete, .packageCorrupted, .packageNotValid] P
      (do requireValid s; let a ← x; return s.reply (value a)) :=
  valid (List.Subset.refl _) (noRaise hx fun _ => ret hP)

end Ends

open Ends in
/-- Every query ends in `State.answer`, on pseudocode that writes nothing or raises a code of its row of the failure
matrix (R202). -/
theorem exec_ends_of_isQuery {i : Instr} (hi : isQuery i = true) (s : State) :
    ∃ c, exec i s = s.answer c ∧ Ends (failureCodes i) (Effect i s) c := by
  have hs : Effect i s s := .query hi
  cases i with
  | getLockStatus => exact ⟨_, rfl, ret hs⟩
  | readReg reg =>
    refine ⟨_, rfl, ?_⟩
    split
    · exact raise (by simp [failureCodes])
    · exact ret hs
  | getSendPacket max =>
    exact ⟨_, rfl, check (by simp [failureCodes]) fun _ => check (by simp [failureCodes]) fun _ =>
      noRaise .memBytes fun _ => ret hs⟩
  | dataAvailable => exact ⟨_, rfl, noRaise .validate fun _ => ret hs⟩
  | validateData => exact ⟨_, rfl, valid (List.Subset.refl _) (ret hs)⟩
  | getDataCount => exact ⟨_, rfl, validField .memRead2 hs⟩
  | getDataInfo k =>
    refine ⟨_, rfl, valid (by simp [failureCodes]) <| noRaise .memRead2 fun count =>
      check (by simp [failureCodes]) fun _ => noRaise (.walkFrom _ _) fun item => ?_⟩
    cases item with
    | none => exact raise (by simp [failureCodes])
    | some item => exact noRaise .memRead1 fun _ => ret hs
  | getData off type n max =>
    exact ⟨_, rfl, valid (by simp [failureCodes]) <| check (by simp [failureCodes]) fun _ =>
      check (by simp [failureCodes]) fun _ => noRaise .memBytes fun _ => ret hs⟩
  | getSourceId => exact ⟨_, rfl, validField .memRead1 hs⟩
  | getDestinationId => exact ⟨_, rfl, validField .memRead1 hs⟩
  | getAckStatus => exact ⟨_, rfl, validField .memRead1 hs⟩
  | getAckRequest => exact ⟨_, rfl, validField .memRead1 hs⟩
  | findHeaderPosition n bytes => exact ⟨_, rfl, ret hs⟩
  | getMessageBufferLen hpos n bytes => exact ⟨_, rfl, check (by simp [failureCodes]) fun _ => ret hs⟩
  | crc16 n bytes => exact ⟨_, rfl, ret hs⟩
  | _ => cases hi

/-- A command that answers has failed with a code of its row and changed nothing, or has completed and answers `OK`. -/
theorem failure_or_ok_of_exec {i : Instr} {s t : State} (h : exec i s = .next t) :
    (∃ code ∈ failureCodes i, t = s.fail code) ∨ ∃ u value data, t = State.respond u ⟨.ok, value, data⟩ := by
  obtain ⟨c, hexec, hends⟩ : ∃ c, exec i s = s.answer c ∧ Ends (failureCodes i) (Effect i s) c := by
    cases hi : isQuery i with
    | true => exact exec_ends_of_isQuery hi s
    | false => exact exec_ends hi s
  rw [hexec] at h
  obtain ⟨d, -, rfl⟩ | ⟨code, hcode, rfl⟩ := State.answer_eq_next.mp h
  · exact .inr ⟨d.state, d.value, d.data, rfl⟩
  · exact .inl ⟨code, hends.raises code hcode, rfl⟩

/-- The newest response is the one just given. -/
theorem State.eq_of_respond_responses {s u : State} {r q : Response}
    (h : (u.respond q).responses = s.responses ++ [r]) : r = q :=
  (List.singleton_inj.mp (List.append_inj_right' h rfl)).symm

/-- Settles O12: an answer other than `OK` is one of `State.fail`, which says what its response is. -/
theorem failedCommandsChangeNothing : Obligations.FailedCommandsChangeNothing := by
  intro i s t r hexec hresponse hfailed
  obtain ⟨code, -, rfl⟩ | ⟨u, value, data, rfl⟩ := failure_or_ok_of_exec hexec
  · obtain rfl := State.eq_of_respond_responses hresponse
    rfl
  · obtain rfl := State.eq_of_respond_responses hresponse
    exact absurd rfl hfailed

/-- Settles O15: each check and each `RequireValid()` of a command raises codes of its row only. -/
theorem answersStayInTheFailureMatrix : Obligations.AnswersStayInTheFailureMatrix := by
  intro i s t r hexec hresponse
  obtain ⟨code, hcode, rfl⟩ | ⟨u, value, data, rfl⟩ := failure_or_ok_of_exec hexec
  · obtain rfl := State.eq_of_respond_responses hresponse
    exact .inr hcode
  · obtain rfl := State.eq_of_respond_responses hresponse
    exact .inl rfl

/-! The lock (R203). -/

/-- The ten commands of R23 begin with the lock check. -/
theorem exec_eq_lockCheck_bind {i : Instr} (hi : lockGuarded i = true) (s : State) :
    ∃ f, exec i s = s.answer (lockCheck s >>= f) := by
  have hbuilder (hi : isAckSetter i = true ∨ isAddData i = true ∨ isComplete i = true) :
      ∃ f, exec i s = s.answer (lockCheck s >>= f) := by
    obtain ⟨f, hexec⟩ := exec_eq_builderCheck_bind hi s
    exact ⟨_, hexec.trans (congrArg s.answer (bind_assoc ..))⟩
  cases i with
  | addAckRequest | addAckStatus | addNackStatus => exact hbuilder (.inl rfl)
  | addData type n payload => exact hbuilder (.inr (.inl rfl))
  | completeMessage => exact hbuilder (.inr (.inr rfl))
  | lockBuffer => exact ⟨_, rfl⟩
  | startNewMessage src dst => exact ⟨_, rfl⟩
  | generateAckMessage src dst => exact ⟨_, rfl⟩
  | generateNackMessage src dst => exact ⟨_, rfl⟩
  | addReceivedBytes n bytes => exact ⟨_, rfl⟩
  | _ => cases hi

/-- `SameReply s s' c c'`: the query run `c` in `s` and the run `c'` in `s'` stop alike, or both write nothing and
return the same. -/
inductive SameReply (s s' : State) : Cmd Done → Cmd Done → Prop
  | reply {value : U16} {data : List Byte} : SameReply s s' (.ok (s.reply value data)) (.ok (s'.reply value data))
  | stop {e : Stop} : SameReply s s' (.error e) (.error e)

namespace SameReply
variable {s s' : State}

/-- The same in front of both. -/
theorem observe {α} {x x' : Cmd α} {f f' : α → Cmd Done} (hx : x' = x) (hf : ∀ a, SameReply s s' (f a) (f' a)) :
    SameReply s s' (x >>= f) (x' >>= f') := by
  subst hx
  cases x' with
  | error e => exact stop
  | ok a => exact hf a

/-- Runs that reply the same answer the same. -/
theorem answer {c c' : Cmd Done} (h : SameReply s s' c c') {r : Response}
    (hr : s.answer c = .next (s.respond r)) : s'.answer c' = .next (s'.respond r) := by
  cases h with
  | reply =>
    obtain ⟨-, rfl⟩ := State.respond_inj (Host.Outcome.next.inj hr) rfl
    rfl
  | @stop e =>
    cases e with
    | raise code =>
      obtain ⟨-, rfl⟩ := State.respond_inj (Host.Outcome.next.inj hr) rfl
      rfl
    | fault reason => cases hr

end SameReply

/-- The walk does not look at the lock (R144). -/
theorem walkFrom_withLock (s : State) (lock : Bool) (k p : Nat) :
    walkFrom { s with lock := lock } k p = walkFrom s k p := by
  induction k generalizing p with
  | zero => rfl
  | succ k ih =>
    unfold walkFrom
    simp only [ih]
    rfl

open SameReply in
/-- A query that does not answer the flag itself runs alike whatever the lock is (R174). -/
theorem exec_sameReply_withLock {i : Instr} (hquery : isQuery i = true) (hstatus : i ≠ .getLockStatus)
    (hreg : ∀ reg, i ≠ .readReg reg) (s : State) (lock : Bool) :
    ∃ c c', exec i { s with lock := lock } = State.answer { s with lock := lock } c ∧ exec i s = s.answer c' ∧
      SameReply { s with lock := lock } s c c' := by
  cases i with
  | getLockStatus => exact absurd rfl hstatus
  | readReg reg => exact absurd rfl (hreg reg)
  | getSendPacket max =>
    exact ⟨_, _, rfl, rfl, observe rfl fun _ => observe rfl fun _ => observe rfl fun _ => reply⟩
  | dataAvailable => exact ⟨_, _, rfl, rfl, observe rfl fun _ => reply⟩
  | validateData => exact ⟨_, _, rfl, rfl, observe rfl fun _ => reply⟩
  | getDataInfo k =>
    refine ⟨_, _, rfl, rfl, observe rfl fun _ => observe rfl fun _ => observe rfl fun _ =>
      observe (walkFrom_withLock s lock ..).symm fun item => ?_⟩
    cases item with
    | none => exact stop
    | some item => exact observe rfl fun _ => reply
  | getData off type n max =>
    exact ⟨_, _, rfl, rfl, observe rfl fun _ => observe rfl fun _ => observe rfl fun _ => observe rfl fun _ => reply⟩
  | getDataCount => exact ⟨_, _, rfl, rfl, observe rfl fun _ => observe rfl fun _ => reply⟩
  | getSourceId => exact ⟨_, _, rfl, rfl, observe rfl fun _ => observe rfl fun _ => reply⟩
  | getDestinationId => exact ⟨_, _, rfl, rfl, observe rfl fun _ => observe rfl fun _ => reply⟩
  | getAckStatus => exact ⟨_, _, rfl, rfl, observe rfl fun _ => observe rfl fun _ => reply⟩
  | getAckRequest => exact ⟨_, _, rfl, rfl, observe rfl fun _ => observe rfl fun _ => reply⟩
  | findHeaderPosition n bytes => exact ⟨_, _, rfl, rfl, reply⟩
  | getMessageBufferLen hpos n bytes => exact ⟨_, _, rfl, rfl, observe rfl fun _ => reply⟩
  | crc16 n bytes => exact ⟨_, _, rfl, rfl, reply⟩
  | _ => cases hquery

/-- Settles O13: the ten begin with the lock check, the two that clear the lock have no check, and the queries run alike
locked and unlocked. -/
theorem theLockRefusesTheTenCommandsFirst : Obligations.TheLockRefusesTheTenCommandsFirst := by
  refine fun i s hlock => ⟨fun hguarded => ?_, fun hclears => ?_, fun hquery hstatus hreg r hunlocked => ?_⟩
  · obtain ⟨f, hexec⟩ := exec_eq_lockCheck_bind hguarded s
    rw [hexec, lockCheck_locked hlock, Cmd.error_bind, State.answer_raise]
  · obtain rfl | rfl := hclears
    · exact ⟨_, rfl, State.lastOk_respond .., rfl⟩
    · exact ⟨_, rfl, State.lastOk_respond .., rfl⟩
  · obtain ⟨c, c', hexec, hexec', hsame⟩ := exec_sameReply_withLock hquery hstatus hreg s false
    rw [hexec] at hunlocked
    exact hexec'.trans (hsame.answer hunlocked)

end Sys2Proof.Machine
end

section
/-! What each command answers in the reset state (R231): the checks that an empty, unlocked, receiving unit passes or
fails, and the table put together from them. -/

namespace Sys2Proof.Machine

/-! A unit in which no frame is complete. -/

section Incomplete
variable {s : State} (hopen : s.packetComplete = false)
include hopen

/-- Completeness is the first thing `Validate()` looks at (R138). -/
theorem validate_of_incomplete : validate s = .ok .packageNotComplete := if_pos hopen

/-- The commands that begin with `RequireValid()` all fail (R141, R145). -/
theorem exec_requiresValid_of_incomplete {i : Instr}
    (hi : i = .validateData ∨ i = .getDataCount ∨ (∃ k, i = .getDataInfo k) ∨
      (∃ off type n max, i = .getData off type n max) ∨ i = .getSourceId ∨ i = .getDestinationId ∨
      i = .getAckStatus ∨ i = .getAckRequest) :
    exec i s = .next (s.fail .packageNotComplete) := by
  have hcode := validate_of_incomplete hopen
  obtain rfl | rfl | ⟨k, rfl⟩ | ⟨off, type, n, max, rfl⟩ | rfl | rfl | rfl | rfl := hi <;>
    exact answer_requireValid_fails hcode ResultCode.noConfusion

/-- `GET_SEND_PACKET` has no frame to send (R116). -/
theorem exec_getSendPacket_of_incomplete (max : U16) :
    exec (.getSendPacket max) s = .next (s.fail .packageNotComplete) := by
  rw [exec, execGetSendPacket, raiseIf_pos hopen, Cmd.error_bind, State.answer_raise]

end Incomplete

/-- A chunk that does not fit is refused before a byte of it is looked at (R130, R207). -/
theorem exec_addReceivedBytes_noSpace {s : State} {n : U16} {bytes : List Byte} (hlock : s.lock = false)
    (htx : s.txStarted = false) (hspace : s.capacity < s.cursor.toNat + n.toNat) :
    exec (.addReceivedBytes n bytes) s = .next (s.fail .noEnoughSpace) := by
  rw [exec_addReceivedBytes_eq, lockCheck_unlocked hlock, Cmd.ok_bind, raiseIf_neg (Bool.eq_false_iff.mp htx),
    Cmd.ok_bind, raiseIf_pos hspace, Cmd.error_bind, State.answer_raise]

/-- Either composite completes on an unlocked unit that can hold a frame (R117, R118). -/
theorem exec_generate_ok {i : Instr} {s : State} (hi : isGenerate i = true) (hlock : s.lock = false)
    (hcap : 14 ≤ s.capacity) :
    ∃ type src dst, exec i s = .next ((s.generated type src dst).respond ⟨.ok, 14, []⟩) := by
  cases i with
  | generateAckMessage src dst => exact ⟨_, src, dst, congrArg s.answer (generate_ok hlock hcap _ src dst)⟩
  | generateNackMessage src dst => exact ⟨_, src, dst, congrArg s.answer (generate_ok hlock hcap _ src dst)⟩
  | _ => cases hi

theorem State.phase_generated (s : State) (type src dst : Byte) : (s.generated type src dst).phase = .txDone :=
  (State.phase_eq_txDone_iff _).mpr ⟨rfl, rfl⟩

theorem State.phase_opened (s : State) (src dst : Byte) : (s.opened src dst).phase = .txBuild :=
  (State.phase_eq_txBuild_iff _).mpr ⟨rfl, rfl⟩

/-- The registers below `CAP` in the map are zero after reset (R36, R42). -/
theorem State.registerContent_resetWith (cap : U16) (contents : Memory) {reg : Byte} (hreg : reg.toNat < 7) :
    (State.resetWith cap contents).registerContent reg = some 0 := by
  unfold State.registerContent
  split
  case h_1 | h_2 | h_3 | h_4 | h_5 | h_6 | h_7 => rfl
  case h_8 => omega
  case h_9 =>
    simp only [imp_false] at *
    omega

/-- Settles O59: after reset no flag is set and the cursor is 0, which decides the first check of every command. -/
theorem resetStateAnswersAsTabled : Obligations.ResetStateAnswersAsTabled := by
  intro cap contents _ _ hcap s
  have hcursor (n : U16) : s.cursor.toNat + n.toNat = n.toNat := Nat.zero_add _
  refine ⟨?resetBuffer, ?unlockBuffer, ?lockBuffer, ?getLockStatus, ?readReg, ?readCap, ?readReserved, ?start, ?builders,
    ?generate, ?getSendPacket, ?receiveFits, ?receiveTooLong, ?dataAvailable, ?frameReads, ?stateless⟩
  case resetBuffer => exact (resetBufferRestoresTheResetState s s rfl).1
  case unlockBuffer => exact unlockBufferClearsTheLock s
  case lockBuffer => exact (lockBufferTestsAndSets s).2 rfl
  case getLockStatus => exact getLockStatusReadsTheLock s
  case readReg => exact fun reg hreg => exec_readReg_of_some (State.registerContent_resetWith cap contents hreg)
  case readCap => exact exec_readReg_of_some rfl
  case readReserved => exact fun reg => (readRegReadsTheRegisterMap s reg).1
  case start =>
    intro src dst
    have hroom : 12 ≤ s.capacity := Nat.le_trans (by decide) hcap
    exact ⟨_, exec_startNewMessage_ok rfl hroom src dst, State.lastOk_respond .., s.phase_opened src dst⟩
  case builders =>
    intro i hi
    obtain ⟨-, -, hnotStarted⟩ := builderChecked_of_builder hi s
    exact hnotStarted rfl rfl rfl
  case generate =>
    intro i hi
    obtain ⟨type, src, dst, hexec⟩ := exec_generate_ok hi (s := s) rfl hcap
    exact ⟨_, hexec, s.phase_generated type src dst⟩
  case getSendPacket => exact exec_getSendPacket_of_incomplete rfl
  case receiveFits =>
    intro n bytes hfits hspace
    rw [← hcursor n] at hspace
    exact ⟨_, exec_addReceivedBytes_ok hfits rfl rfl hspace, State.lastOk_respond ..⟩
  case receiveTooLong =>
    intro n bytes hspace
    rw [← hcursor n] at hspace
    exact exec_addReceivedBytes_noSpace rfl rfl hspace
  case dataAvailable => exact exec_dataAvailable_eq (validate_of_incomplete rfl)
  case frameReads => exact fun i => exec_requiresValid_of_incomplete rfl
  case stateless => exact fun i hi s' => statelessCommandsIgnoreTheState i s s' hi

end Sys2Proof.Machine
end
